-- ==== Sys2Proof/Word.lean ====
section
/-! DEFINITION. The word types of the CHIP-8 core (spec/00_scope.md R5, spec/10_state.md R10, R13, R16). -/

namespace Sys2Proof

/-- 8 bits: a general register, a memory byte, a timer (R5, R10, R21). -/
abbrev Byte := BitVec 8

/-- 16 bits: an instruction word, pc, I, an entry of the call stack (R5, R13, R16, R17). -/
abbrev Word := BitVec 16

/-- The number of a general register: "every encodable register number names an existing register" (R10). -/
abbrev Reg := Fin 16

end Sys2Proof
end

