-- ==== Sys2Proof/Syntax.lean ====
section
/-! DEFINITION. The 35 rows of the opcode map (spec/30_encoding.md R66), one constructor each, with the operand
fields of the row's format (R61 to R63). -/

namespace Sys2Proof

/-- An instruction of the opcode map, R66. `x` and `y` are register numbers, `kk` an immediate byte, `n` a row
count, `nnn` an address. `shr` and `shl` keep the `y` field that they ignore (R70). -/
inductive Instr where
  /-- `00E0` CLS (R150). -/
  | cls
  /-- `00EE` RET (R102). -/
  | ret
  /-- `0nnn` SYS nnn, the reserved row (R69, R101). -/
  | sys (nnn : BitVec 12)
  /-- `1nnn` JP nnn (R103). -/
  | jp (nnn : BitVec 12)
  /-- `2nnn` CALL nnn (R104). -/
  | call (nnn : BitVec 12)
  /-- `3xkk` SE Vx, kk (R105). -/
  | seByte (x : Reg) (kk : Byte)
  /-- `4xkk` SNE Vx, kk (R106). -/
  | sneByte (x : Reg) (kk : Byte)
  /-- `5xy0` SE Vx, Vy (R107). -/
  | seReg (x y : Reg)
  /-- `6xkk` LD Vx, kk (R120). -/
  | ldByte (x : Reg) (kk : Byte)
  /-- `7xkk` ADD Vx, kk (R121). -/
  | addByte (x : Reg) (kk : Byte)
  /-- `8xy0` LD Vx, Vy (R131). -/
  | ldReg (x y : Reg)
  /-- `8xy1` OR Vx, Vy (R132). -/
  | or (x y : Reg)
  /-- `8xy2` AND Vx, Vy (R133). -/
  | and (x y : Reg)
  /-- `8xy3` XOR Vx, Vy (R134). -/
  | xor (x y : Reg)
  /-- `8xy4` ADD Vx, Vy (R135). -/
  | addReg (x y : Reg)
  /-- `8xy5` SUB Vx, Vy (R136). -/
  | sub (x y : Reg)
  /-- `8xy6` SHR Vx, y ignored (R137). -/
  | shr (x y : Reg)
  /-- `8xy7` SUBN Vx, Vy (R138). -/
  | subn (x y : Reg)
  /-- `8xyE` SHL Vx, y ignored (R139). -/
  | shl (x y : Reg)
  /-- `9xy0` SNE Vx, Vy (R108). -/
  | sneReg (x y : Reg)
  /-- `Annn` LD I, nnn (R122). -/
  | ldI (nnn : BitVec 12)
  /-- `Bnnn` JP V0, nnn (R109). -/
  | jpV0 (nnn : BitVec 12)
  /-- `Cxkk` RND Vx, kk (R123). -/
  | rnd (x : Reg) (kk : Byte)
  /-- `Dxyn` DRW Vx, Vy, n (R151). -/
  | drw (x y : Reg) (n : BitVec 4)
  /-- `Ex9E` SKP Vx (R160). -/
  | skp (x : Reg)
  /-- `ExA1` SKNP Vx (R161). -/
  | sknp (x : Reg)
  /-- `Fx07` LD Vx, DT (R170). -/
  | ldVxDt (x : Reg)
  /-- `Fx0A` LD Vx, K (R162). -/
  | ldVxK (x : Reg)
  /-- `Fx15` LD DT, Vx (R171). -/
  | ldDtVx (x : Reg)
  /-- `Fx18` LD ST, Vx (R172). -/
  | ldStVx (x : Reg)
  /-- `Fx1E` ADD I, Vx (R173). -/
  | addI (x : Reg)
  /-- `Fx29` LD F, Vx (R174). -/
  | ldF (x : Reg)
  /-- `Fx33` LD B, Vx (R175). -/
  | ldB (x : Reg)
  /-- `Fx55` LD [I], Vx (R176). -/
  | storeRegs (x : Reg)
  /-- `Fx65` LD Vx, [I] (R177). -/
  | loadRegs (x : Reg)
deriving DecidableEq, Repr

end Sys2Proof
end

