-- ==== Sys2Proof/Decode.lean ====
section
/-! DEFINITION. The decoder of spec/30_encoding.md R60 to R70, total on every word and on every byte string, the
encoder of R75, and the opcode map of R66 as data. -/

namespace Sys2Proof

/-! ## Fields (R61) -/

/-- `op`, nibble 1: w[15:12]. -/
def fieldOp (w : Word) : BitVec 4 := w.extractLsb' 12 4
/-- `x`, nibble 2: w[11:8], a register number. -/
def fieldX (w : Word) : Reg := (w.extractLsb' 8 4).toFin
/-- `y`, nibble 3: w[7:4], a register number. -/
def fieldY (w : Word) : Reg := (w.extractLsb' 4 4).toFin
/-- `n`, nibble 4: w[3:0]. -/
def fieldN (w : Word) : BitVec 4 := w.extractLsb' 0 4
/-- `kk`: w[7:0]. -/
def fieldKk (w : Word) : Byte := w.extractLsb' 0 8
/-- `nnn`: w[11:0]. -/
def fieldNnn (w : Word) : BitVec 12 := w.extractLsb' 0 12

/-! ## The decoder (R64, R67) -/

/-- Why bytes are no instruction: one name for each group of unrecognized words of R68, and one for a string
too short to hold a word (R60). -/
inductive Reject where
  /-- `5xyN` with N not 0. -/
  | group5
  /-- `8xyN` with N in 8 to D or F. -/
  | group8
  /-- `9xyN` with N not 0. -/
  | group9
  /-- `ExKK` with KK not 9E or A1. -/
  | groupE
  /-- `FxKK` with KK not one of the nine of R67. -/
  | groupF
  /-- Fewer than two bytes. -/
  | truncated
deriving DecidableEq, Repr

/-- First nibble 0: the exact words `00E0` and `00EE`, else SYS (R64, R69, R101). -/
def decodeGroup0 (w : Word) : Instr :=
  if w = 0x00E0#16 then .cls else if w = 0x00EE#16 then .ret else .sys (fieldNnn w)

/-- First nibble 8: nibble 4 selects the operation (R67). -/
def decodeGroup8 (w : Word) : Except Reject Instr :=
  match (fieldN w).toNat with
  | 0x0 => .ok (.ldReg (fieldX w) (fieldY w))
  | 0x1 => .ok (.or (fieldX w) (fieldY w))
  | 0x2 => .ok (.and (fieldX w) (fieldY w))
  | 0x3 => .ok (.xor (fieldX w) (fieldY w))
  | 0x4 => .ok (.addReg (fieldX w) (fieldY w))
  | 0x5 => .ok (.sub (fieldX w) (fieldY w))
  | 0x6 => .ok (.shr (fieldX w) (fieldY w))
  | 0x7 => .ok (.subn (fieldX w) (fieldY w))
  | 0xE => .ok (.shl (fieldX w) (fieldY w))
  | _ => .error .group8

/-- First nibble E: the low byte selects SKP or SKNP (R67). -/
def decodeGroupE (w : Word) : Except Reject Instr :=
  match (fieldKk w).toNat with
  | 0x9E => .ok (.skp (fieldX w))
  | 0xA1 => .ok (.sknp (fieldX w))
  | _ => .error .groupE

/-- First nibble F: the low byte selects one of nine (R67). -/
def decodeGroupF (w : Word) : Except Reject Instr :=
  match (fieldKk w).toNat with
  | 0x07 => .ok (.ldVxDt (fieldX w))
  | 0x0A => .ok (.ldVxK (fieldX w))
  | 0x15 => .ok (.ldDtVx (fieldX w))
  | 0x18 => .ok (.ldStVx (fieldX w))
  | 0x1E => .ok (.addI (fieldX w))
  | 0x29 => .ok (.ldF (fieldX w))
  | 0x33 => .ok (.ldB (fieldX w))
  | 0x55 => .ok (.storeRegs (fieldX w))
  | 0x65 => .ok (.loadRegs (fieldX w))
  | _ => .error .groupF

/-- The decoder by first nibble (R64, R67): "Decoding depends on the word alone". -/
def decode (w : Word) : Except Reject Instr :=
  match (fieldOp w).toNat with
  | 0x0 => .ok (decodeGroup0 w)
  | 0x1 => .ok (.jp (fieldNnn w))
  | 0x2 => .ok (.call (fieldNnn w))
  | 0x3 => .ok (.seByte (fieldX w) (fieldKk w))
  | 0x4 => .ok (.sneByte (fieldX w) (fieldKk w))
  | 0x5 => if fieldN w = 0 then .ok (.seReg (fieldX w) (fieldY w)) else .error .group5
  | 0x6 => .ok (.ldByte (fieldX w) (fieldKk w))
  | 0x7 => .ok (.addByte (fieldX w) (fieldKk w))
  | 0x8 => decodeGroup8 w
  | 0x9 => if fieldN w = 0 then .ok (.sneReg (fieldX w) (fieldY w)) else .error .group9
  | 0xA => .ok (.ldI (fieldNnn w))
  | 0xB => .ok (.jpV0 (fieldNnn w))
  | 0xC => .ok (.rnd (fieldX w) (fieldKk w))
  | 0xD => .ok (.drw (fieldX w) (fieldY w) (fieldN w))
  | 0xE => decodeGroupE w
  | _ => decodeGroupF w

/-- Big-endian: the byte at the lower address is w[15:8] (R45, R60). -/
def joinBytes (hi lo : Byte) : Word := hi ++ lo

/-- The high byte of a word, stored at the lower address (R45, R75). -/
def highByte (w : Word) : Byte := w.extractLsb' 8 8

/-- The low byte of a word, stored at the next address (R45, R75). -/
def lowByte (w : Word) : Byte := w.extractLsb' 0 8

/-- The decoder on a byte string: the instruction of its first two bytes, and the rest (R60). -/
def decodeBytes : List Byte → Except Reject (Instr × List Byte)
  | hi :: lo :: rest => (decode (joinBytes hi lo)).map fun i => (i, rest)
  | _ => .error .truncated

/-! ## The encoder (R75): `w = op ++ x ++ y ++ n`, unused fields replaced by the format's fixed nibbles -/

/-- A register number as a nibble. -/
def nibble (r : Reg) : BitVec 4 := BitVec.ofFin (w := 4) r

/-- Format A, `onnn` (R62). -/
def formatA (op : BitVec 4) (nnn : BitVec 12) : Word := op ++ nnn

/-- Format XK, `oxkk` (R62); with a fixed low byte it is format X. -/
def formatXK (op : BitVec 4) (x : Reg) (kk : Byte) : Word := op ++ nibble x ++ kk

/-- Format XYN, `oxyn` (R62); with a fixed nibble 4 it is format XY. -/
def formatXYN (op : BitVec 4) (x y : Reg) (n : BitVec 4) : Word := op ++ nibble x ++ nibble y ++ n

/-- The word of an instruction (R66, R75). -/
def encode : Instr → Word
  | .cls => 0x00E0
  | .ret => 0x00EE
  | .sys nnn => formatA 0x0 nnn
  | .jp nnn => formatA 0x1 nnn
  | .call nnn => formatA 0x2 nnn
  | .seByte x kk => formatXK 0x3 x kk
  | .sneByte x kk => formatXK 0x4 x kk
  | .seReg x y => formatXYN 0x5 x y 0x0
  | .ldByte x kk => formatXK 0x6 x kk
  | .addByte x kk => formatXK 0x7 x kk
  | .ldReg x y => formatXYN 0x8 x y 0x0
  | .or x y => formatXYN 0x8 x y 0x1
  | .and x y => formatXYN 0x8 x y 0x2
  | .xor x y => formatXYN 0x8 x y 0x3
  | .addReg x y => formatXYN 0x8 x y 0x4
  | .sub x y => formatXYN 0x8 x y 0x5
  | .shr x y => formatXYN 0x8 x y 0x6
  | .subn x y => formatXYN 0x8 x y 0x7
  | .shl x y => formatXYN 0x8 x y 0xE
  | .sneReg x y => formatXYN 0x9 x y 0x0
  | .ldI nnn => formatA 0xA nnn
  | .jpV0 nnn => formatA 0xB nnn
  | .rnd x kk => formatXK 0xC x kk
  | .drw x y n => formatXYN 0xD x y n
  | .skp x => formatXK 0xE x 0x9E
  | .sknp x => formatXK 0xE x 0xA1
  | .ldVxDt x => formatXK 0xF x 0x07
  | .ldVxK x => formatXK 0xF x 0x0A
  | .ldDtVx x => formatXK 0xF x 0x15
  | .ldStVx x => formatXK 0xF x 0x18
  | .addI x => formatXK 0xF x 0x1E
  | .ldF x => formatXK 0xF x 0x29
  | .ldB x => formatXK 0xF x 0x33
  | .storeRegs x => formatXK 0xF x 0x55
  | .loadRegs x => formatXK 0xF x 0x65

/-- The bytes of an instruction, the high byte first (R45, R75). -/
def encodeBytes (i : Instr) : List Byte := [highByte (encode i), lowByte (encode i)]

/-! ## The opcode map as data (R66) -/

/-- The match and mask columns of R66: "a word `w` selects the row when `w AND mask = match`". -/
structure Row where
  number : Nat
  pattern : Word
  mask : Word
deriving DecidableEq, Repr

/-- The word selects the row (R66). -/
def Row.selects (r : Row) (w : Word) : Bool := w &&& r.mask == r.pattern

/-- R66, in its order; rows 1 and 2 stand before the `0nnn` row, as R64 tests them. -/
def opcodeMap : List Row :=
  [⟨1, 0x00E0, 0xFFFF⟩, ⟨2, 0x00EE, 0xFFFF⟩, ⟨3, 0x0000, 0xF000⟩, ⟨4, 0x1000, 0xF000⟩, ⟨5, 0x2000, 0xF000⟩,
   ⟨6, 0x3000, 0xF000⟩, ⟨7, 0x4000, 0xF000⟩, ⟨8, 0x5000, 0xF00F⟩, ⟨9, 0x6000, 0xF000⟩, ⟨10, 0x7000, 0xF000⟩]
  ++ [⟨11, 0x8000, 0xF00F⟩, ⟨12, 0x8001, 0xF00F⟩, ⟨13, 0x8002, 0xF00F⟩, ⟨14, 0x8003, 0xF00F⟩, ⟨15, 0x8004, 0xF00F⟩,
   ⟨16, 0x8005, 0xF00F⟩, ⟨17, 0x8006, 0xF00F⟩, ⟨18, 0x8007, 0xF00F⟩, ⟨19, 0x800E, 0xF00F⟩, ⟨20, 0x9000, 0xF00F⟩]
  ++ [⟨21, 0xA000, 0xF000⟩, ⟨22, 0xB000, 0xF000⟩, ⟨23, 0xC000, 0xF000⟩, ⟨24, 0xD000, 0xF000⟩,
   ⟨25, 0xE09E, 0xF0FF⟩, ⟨26, 0xE0A1, 0xF0FF⟩, ⟨27, 0xF007, 0xF0FF⟩, ⟨28, 0xF00A, 0xF0FF⟩, ⟨29, 0xF015, 0xF0FF⟩]
  ++ [⟨30, 0xF018, 0xF0FF⟩, ⟨31, 0xF01E, 0xF0FF⟩, ⟨32, 0xF029, 0xF0FF⟩, ⟨33, 0xF033, 0xF0FF⟩, ⟨34, 0xF055, 0xF0FF⟩,
   ⟨35, 0xF065, 0xF0FF⟩]

/-- The first row of R66 that the word selects, as R64 looks it up. -/
def firstRow (w : Word) : Option Row := opcodeMap.find? fun r => r.selects w

/-- The number, in R66, of an instruction's row. -/
def Instr.rowNumber : Instr → Nat
  | .cls => 1 | .ret => 2 | .sys _ => 3 | .jp _ => 4 | .call _ => 5 | .seByte _ _ => 6 | .sneByte _ _ => 7
  | .seReg _ _ => 8 | .ldByte _ _ => 9 | .addByte _ _ => 10 | .ldReg _ _ => 11 | .or _ _ => 12 | .and _ _ => 13
  | .xor _ _ => 14 | .addReg _ _ => 15 | .sub _ _ => 16 | .shr _ _ => 17 | .subn _ _ => 18 | .shl _ _ => 19
  | .sneReg _ _ => 20 | .ldI _ => 21 | .jpV0 _ => 22 | .rnd _ _ => 23 | .drw _ _ _ => 24 | .skp _ => 25 | .sknp _ => 26
  | .ldVxDt _ => 27 | .ldVxK _ => 28 | .ldDtVx _ => 29 | .ldStVx _ => 30 | .addI _ => 31 | .ldF _ => 32 | .ldB _ => 33
  | .storeRegs _ => 34 | .loadRegs _ => 35

/-! ## The host's question -/

/-- The instruction the decoder reads from the instruction whose bits are `w` as spec/opcode_table.json numbers
them (bit 0 least significant of the one 16-bit word); bits above `nbits` are 0. -/
def decodeTableWord (nbits w : Nat) : Option Instr :=
  let word := BitVec.ofNat 16 (w % 2 ^ nbits)
  match decodeBytes [highByte word, lowByte word] with
  | .ok (i, _) => some i
  | .error _ => none

end Sys2Proof
end

