-- ==== Sys2Proof/Config.lean ====
section
/-! DEFINITION. The implementation parameters of spec/00_scope.md R4, and the one free value (R123). -/

namespace Sys2Proof.Config

/-- `ADDR_MAX`: the highest legal memory address (R4). -/
abbrev addrMax : Nat := 4095

/-- `PROG_BASE`: the first program byte, and pc at reset (R4). -/
abbrev progBase : Nat := 0x200

/-- `PROG_MAX`: the largest program in bytes (R4, R246). -/
abbrev progMax : Nat := 3584

/-- `MEM_FILL`: the byte in cells that are neither font nor program (R4, D24). -/
abbrev memFill : Byte := 0x00

/-- `FLAG_REG`: the index of the flag register VF (R4, R11). -/
abbrev flagReg : Reg := 15

/-- The byte on `rnd_in` at the n-th draw (R123, D19, U5): a free value, with no body, so that "any of the 256
values at every execution, with no relation between two draws" is all that can be known of it. Log 3. -/
opaque rndByte : Nat → Byte

end Sys2Proof.Config
end

