-- ==== Sys2Proof/Machine/State.lean ====
section
/-! DEFINITION. The state of the core: the tuple at the head of spec/10_state.md, and three fields of the model's
own that carry the host's choices (R25: "inputs of a step and not state"). -/

namespace Sys2Proof.Machine

/-- The cause of a fatal condition (spec/10_state.md R27, spec/60_exceptions.md R201 to R205). -/
inductive Cause where
  /-- Code 1 (R201). -/
  | unrecognizedInstruction
  /-- Code 2 (R202). -/
  | stackUnderflow
  /-- Code 3 (R203). -/
  | stackOverflow
  /-- Code 4 (R204). -/
  | memoryOutOfRange
  /-- Code 5 (R205). -/
  | keyIndexOutOfRange
deriving DecidableEq, Repr

/-- The mode register (R26). -/
inductive Mode where
  | running
  | awaitingKey (x : Reg)
  | halted (cause : Cause)
deriving DecidableEq, Repr

/-- What the host can present to the core: the four events of spec/40_execution_engine.md R80, and one byte
written through the loader port of R93. Log 4, log 6. -/
inductive Input where
  | reset
  | step
  | tick
  /-- Bit k of the sample is 1 when key k is held (R80, R93). -/
  | keyPoll (sample : BitVec 16)
  | loaderWrite (addr : BitVec 12) (data : Byte)
deriving DecidableEq, Repr

/-- Memory as a list of (address, byte) in canonical form (`Memory.wf`, Machine/Memory.lean): the bytes that differ
from what memory holds after Reset. Log 9. -/
abbrev Memory := List Host.Cell

/-- The framebuffer: `fb[row][col]`, true meaning ON (R22). -/
abbrev Framebuffer := Vector (Vector Bool 64) 32

/-- The state of the core (spec/10_state.md, R10 to R27). -/
structure State where
  /-- V[0..15] (R10, R11). -/
  v : Vector Byte 16
  /-- The index register I (R16). -/
  i : Word
  /-- The program counter (R13). -/
  pc : Word
  /-- The call stack's 16 entries (R17). -/
  stack : Vector Word 16
  /-- The number of valid entries, 0 to 16 (R18). -/
  sp : Fin 17
  /-- The delay timer DT (R19). -/
  dt : Byte
  /-- The sound timer ST (R20). -/
  st : Byte
  /-- mem[0..4095] (R21). -/
  mem : Memory
  /-- fb[0..31][0..63] (R22). -/
  fb : Framebuffer
  /-- The key latch: bit k is keys[k] (R23), which is also the previous sample (R24). -/
  keys : BitVec 16
  /-- The mode register (R26). -/
  mode : Mode
  /-- The MODEL's own: the inputs the host has still to present, the next one first. Empty stands for a Step. Log 4. -/
  inputs : List Input
  /-- The MODEL's own: how many random bytes have been drawn; the free value of RND is indexed by it. Log 3. -/
  draws : Nat
  /-- The MODEL's own: between Reset and the first Step, when the loader port may write (R93, R243). Log 5. -/
  loadPhase : Bool
deriving DecidableEq, Repr

/-- A step that stops with a fault. The core has none: every exceptional condition the spec gives is a fatal
condition, which is the NEXT state `mode = Halted(cause)` (R200, R208). No constructor, so no step can answer
with one. Log 7. -/
inductive Fault where
deriving DecidableEq, Repr

/-- A step to which the model gives no next state. -/
inductive Refusal where
  /-- An arm of `exec` without a meaning; none is left. Raised by nothing. Safe. -/
  | notModelled (mnemonic : String)
  /-- A loader write after the first Step: "the rules give such a write no meaning" (spec/40_execution_engine.md
  R94, U19). Raised by `applyInput`, by no instruction. Safe: the run stops where the spec says nothing. Log 5. -/
  | loaderWriteAfterFirstStep
deriving DecidableEq, Repr

/-- The answer of a step. -/
abbrev Result := Host.Outcome State Fault Refusal

/-- The state after the Reset event (R28, spec/70_reset_and_hazards.md R240). `mem = []` is the reset memory: font
and MEM_FILL (`resetByte`). The stack entries (log 2) and the last three fields (logs 3, 4, 5) are the model's. -/
def State.reset : State where
  v := Vector.replicate 16 0x00
  i := 0x0000
  pc := 0x0200
  stack := Vector.replicate 16 0x0000
  sp := 0
  dt := 0x00
  st := 0x00
  mem := []
  fb := Vector.replicate 32 (Vector.replicate 64 false)
  keys := 0
  mode := .running
  inputs := []
  draws := 0
  loadPhase := true

end Sys2Proof.Machine
end

