-- ==== Sys2Proof/Machine/Memory.lean ====
section
/-! DEFINITION. Memory and the framebuffer as data: what a byte reads as, how a byte is written so that the list
stays canonical, and pixels (spec/20_memory.md R40 to R49, R55). -/

namespace Sys2Proof.Machine

/-! ## Memory -/

/-- The font of R47: sixteen 5-byte glyphs, the glyph of digit d at 5·d, first byte the top row. -/
def font : List Byte :=
  [0xF0, 0x90, 0x90, 0x90, 0xF0] ++ [0x20, 0x60, 0x20, 0x20, 0x70] ++ [0xF0, 0x10, 0xF0, 0x80, 0xF0] ++
  [0xF0, 0x10, 0xF0, 0x10, 0xF0] ++ [0x90, 0x90, 0xF0, 0x10, 0x10] ++ [0xF0, 0x80, 0xF0, 0x10, 0xF0] ++
  [0xF0, 0x80, 0xF0, 0x90, 0xF0] ++ [0xF0, 0x10, 0x20, 0x40, 0x40] ++ [0xF0, 0x90, 0xF0, 0x90, 0xF0] ++
  [0xF0, 0x90, 0xF0, 0x10, 0xF0] ++ [0xF0, 0x90, 0xF0, 0x90, 0x90] ++ [0xE0, 0x90, 0xE0, 0x90, 0xE0] ++
  [0xF0, 0x80, 0x80, 0x80, 0xF0] ++ [0xE0, 0x90, 0x90, 0x90, 0xE0] ++ [0xF0, 0x80, 0xF0, 0x80, 0xF0] ++
  [0xF0, 0x80, 0xF0, 0x80, 0x80]

/-- What an address that the list does not hold reads as: the contents after Reset, the font at 0x000 to 0x04F and
MEM_FILL elsewhere (R28, R41, R47). -/
def resetByte (a : Nat) : Byte := font.getD a Config.memFill

/-- The byte the list holds for an address, if it holds one. -/
def Memory.lookup (a : Nat) : Memory → Option Byte
  | [] => none
  | (k, b) :: rest => if k = a then some b else Memory.lookup a rest

/-- The byte at an address (R42, without the range check, which the accesses of Machine/Ops.lean make). -/
def Memory.read (m : Memory) (a : Nat) : Byte := (Memory.lookup a m).getD (resetByte a)

/-- Put an entry in its place by address, replacing an entry of the same address. -/
def Memory.place (a : Nat) (b : Byte) : Memory → Memory
  | [] => [(a, b)]
  | (k, c) :: rest =>
    if a < k then (a, b) :: (k, c) :: rest
    else if k = a then (a, b) :: rest
    else (k, c) :: Memory.place a b rest

/-- Take out the entry of an address. -/
def Memory.drop (a : Nat) : Memory → Memory
  | [] => []
  | (k, c) :: rest => if k = a then rest else (k, c) :: Memory.drop a rest

/-- `mem[addr] <- v` (R43). Writing what the address reads as after Reset takes the entry out, so the form stays
canonical. An address above 4095 does not exist: nothing is written (log 9). -/
def Memory.write (m : Memory) (a : Nat) (b : Byte) : Memory :=
  if a ≤ Config.addrMax then
    if b = resetByte a then Memory.drop a m else Memory.place a b m
  else m

/-- Consecutive bytes from an address upward, one byte write each (R45, R175, R176, R245). -/
def Memory.writeBytes (m : Memory) (a : Nat) : List Byte → Memory
  | [] => m
  | b :: bs => Memory.writeBytes (m.write a b) (a + 1) bs

/-- `n` consecutive bytes from an address upward (R151). -/
def Memory.readBytes (m : Memory) (a : Nat) : Nat → List Byte
  | 0 => []
  | n + 1 => m.read a :: Memory.readBytes m (a + 1) n

/-- The canonical form: addresses strictly rising, all in 0 to 4095, and no entry equal to what an unlisted
address reads as. -/
abbrev Memory.wf (m : Memory) : Prop :=
  m.Pairwise (fun c d => c.1 < d.1) ∧ ∀ c ∈ m, c.1 ≤ Config.addrMax ∧ c.2 ≠ resetByte c.1

/-! ## The framebuffer (R22, R55) -/

/-- `fb[row][col]`. -/
def Framebuffer.pixel (fb : Framebuffer) (row : Fin 32) (col : Fin 64) : Bool := (fb.get row).get col

/-- `fb[row][col] <- b`. -/
def Framebuffer.setPixel (fb : Framebuffer) (row : Fin 32) (col : Fin 64) (b : Bool) : Framebuffer :=
  fb.set row ((fb.get row).set col b)

/-- A row coordinate, modulo 32 (R55, R151). -/
def wrapRow (n : Nat) : Fin 32 := ⟨n % 32, Nat.mod_lt n (by decide)⟩

/-- A column coordinate, modulo 64 (R55, R151). -/
def wrapCol (n : Nat) : Fin 64 := ⟨n % 64, Nat.mod_lt n (by decide)⟩

/-- All 2048 pixels OFF (R150, R240). -/
def Framebuffer.clear : Framebuffer := Vector.replicate 32 (Vector.replicate 64 false)

/-- One sprite bit equal to 1 on a pixel (R151): toggle it, and note a collision when it was ON. -/
def Framebuffer.flip (row : Fin 32) (col : Fin 64) (acc : Framebuffer × Bool) : Framebuffer × Bool :=
  (acc.1.setPixel row col (!acc.1.pixel row col), acc.2 || acc.1.pixel row col)

/-- The columns `c`, `c + 1`, ... 7 of one sprite row on framebuffer row `row`: bit 7 − c of the byte is sprite
column c (R151, D20). `k` counts the columns left. -/
def Framebuffer.drawRow (vx : Nat) (row : Fin 32) (b : Byte) : Nat → Framebuffer × Bool → Framebuffer × Bool
  | 0, acc => acc
  | k + 1, acc =>
    Framebuffer.drawRow vx row b k
      (if b.getLsbD k then Framebuffer.flip row (wrapCol (vx + (7 - k))) acc else acc)

/-- The sprite rows from row `r` on, each on framebuffer row `(vy + r) mod 32` (R151). -/
def Framebuffer.drawSprite (vx vy : Nat) (r : Nat) : List Byte → Framebuffer × Bool → Framebuffer × Bool
  | [], acc => acc
  | b :: bs, acc =>
    Framebuffer.drawSprite vx vy (r + 1) bs (Framebuffer.drawRow vx (wrapRow (vy + r)) b 8 acc)

end Sys2Proof.Machine
end

