-- ==== Sys2Proof/Machine/Ops.lean ====
section
/-! DEFINITION. The named operations over the state: reads and writes of each register, the program counter's three
outcomes, the call stack, memory accesses with their range check, the random draw, and entering a fatal condition. -/

namespace Sys2Proof.Machine

/-! ## One write for each piece of state -/

/-- `V[r] <- b` (R6, R10). -/
def State.setV (s : State) (r : Reg) (b : Byte) : State := { s with v := s.v.set r b }
/-- All sixteen registers at once. -/
def State.setVs (s : State) (vs : Vector Byte 16) : State := { s with v := vs }
/-- `I <- w` (R16). -/
def State.setI (s : State) (w : Word) : State := { s with i := w }
/-- `pc <- w` (R13). -/
def State.setPc (s : State) (w : Word) : State := { s with pc := w }
/-- `stack[j] <- w` (R17). -/
def State.setStackEntry (s : State) (j : Fin 16) (w : Word) : State := { s with stack := s.stack.set j w }
/-- `sp <- n` (R18). -/
def State.setSp (s : State) (n : Fin 17) : State := { s with sp := n }
/-- `DT <- b` (R19). -/
def State.setDt (s : State) (b : Byte) : State := { s with dt := b }
/-- `ST <- b` (R20). -/
def State.setSt (s : State) (b : Byte) : State := { s with st := b }
/-- Memory as a whole (R21). -/
def State.setMem (s : State) (m : Memory) : State := { s with mem := m }
/-- The framebuffer as a whole (R22). -/
def State.setFb (s : State) (fb : Framebuffer) : State := { s with fb := fb }
/-- `keys <- k`, all 16 entries (R23). -/
def State.setKeys (s : State) (k : BitVec 16) : State := { s with keys := k }
/-- `mode <- m` (R26). -/
def State.setMode (s : State) (m : Mode) : State := { s with mode := m }
/-- The host's pending inputs. Log 4. -/
def State.setInputs (s : State) (l : List Input) : State := { s with inputs := l }
/-- The number of draws so far. Log 3. -/
def State.setDraws (s : State) (n : Nat) : State := { s with draws := n }
/-- Whether the loader port may write. Log 5. -/
def State.setLoadPhase (s : State) (b : Bool) : State := { s with loadPhase := b }

/-! ## Reads -/

/-- `V[r]` (R6, R10). -/
def State.getV (s : State) (r : Reg) : Byte := s.v.get r

/-- `stack[j]` (R6, R17). -/
def State.stackEntry (s : State) (j : Fin 16) : Word := s.stack.get j

/-- `keys[k]` (R6, R23). -/
def State.key (s : State) (k : Reg) : Bool := s.keys.getLsb k

/-- `fb[row][col]` (R6, R22). -/
def State.pixel (s : State) (row : Fin 32) (col : Fin 64) : Bool := s.fb.pixel row col

/-! ## The fatal condition (R6, R208) -/

/-- `raise C`: "does exactly this: `mode <- Halted(code of C)`. No other state changes" (R208). The one exceptional
mechanism (R200); there is no return from it (R210), so no operation stands beside it. Log 7. -/
def raise (c : Cause) (s : State) : Result := .next (s.setMode (.halted c))

/-! ## The program counter (R14, R88), on the 16-bit register, never reduced modulo 4096 (R15) -/

/-- Next: `pc <- pc + 2`. -/
def State.advance (s : State) : State := s.setPc (s.pc + 2)

/-- Skip (`pc <- pc + 4`) when the condition holds, else Next. -/
def State.skipIf (s : State) (c : Bool) : State := s.setPc (s.pc + if c then 4 else 2)

/-- The address after the instruction, which CALL pushes (R104). -/
def State.returnAddress (s : State) : Word := s.pc + 2

/-! ## The call stack (R18) -/

/-- Push: none when all 16 entries are valid. -/
def State.push (s : State) (a : Word) : Option State :=
  if h : s.sp.val < 16 then some ((s.setStackEntry ⟨s.sp.val, h⟩ a).setSp ⟨s.sp.val + 1, by omega⟩) else none

/-- Pop: the newest entry and the state without it; none when no entry is valid. -/
def State.pop (s : State) : Option (Word × State) :=
  if h : 0 < s.sp.val then
    some (s.stackEntry ⟨s.sp.val - 1, by omega⟩, s.setSp ⟨s.sp.val - 1, by omega⟩)
  else none

/-! ## Memory accesses (R42 to R44) -/

/-- `MemRead(addr, 1)`: none when `addr > 4095` (R42). The address is a natural number, not reduced. -/
def State.memRead (s : State) (a : Nat) : Option Byte :=
  if a ≤ Config.addrMax then some (s.mem.read a) else none

/-- The effective address I + k, on natural numbers (R44). -/
def State.indexAddress (s : State) (k : Nat) : Nat := s.i.toNat + k

/-- The range check of R44: an instruction that accesses `count` bytes from I upward goes on to `done` when its
highest address is at most 4095 or it accesses none, and otherwise raises MemoryOutOfRange with none of its writes. -/
def State.checkedAccess (s : State) (count : Nat) (done : State) : Result :=
  if count = 0 ∨ s.indexAddress (count - 1) ≤ Config.addrMax then .next done else raise .memoryOutOfRange s

/-- Store bytes from I upward, after the check (R175, R176). -/
def State.storeBytes (s : State) (bytes : List Byte) : State := s.setMem (s.mem.writeBytes (s.indexAddress 0) bytes)

/-! ## The random byte (R123) -/

/-- `rnd()`: the byte of this draw, and the state in which the next draw is another one. Log 3. -/
def State.drawByte (s : State) : Byte × State := (Config.rndByte s.draws, s.setDraws (s.draws + 1))

end Sys2Proof.Machine
end

