-- ==== Sys2Proof/Machine/Flags.lean ====
section
/-! DEFINITION. Every flag computation the spec gives: the carry, the two not-borrows, the two bits shifted out and
the collision (spec/10_state.md R11), and the order flag first, destination second (R86 (c), R130 (d), D11). -/

namespace Sys2Proof.Machine

/-- "the flag, 0x00 or 0x01 as a full byte" (R130 (d)). -/
def flagByte (b : Bool) : Byte := if b then 0x01 else 0x00

/-- ADD: `s = zext_9(a) + zext_9(b)`, the flag is s[8] (R135). -/
def carryFlag (a b : Byte) : Byte := flagByte ((a.zeroExtend 9 + b.zeroExtend 9).getLsbD 8)

/-- SUB and SUBN: 1 when the minuend is at least the subtrahend, unsigned (R136, R138). -/
def notBorrowFlag (minuend subtrahend : Byte) : Byte := flagByte (subtrahend ≤ minuend)

/-- SHR: bit 0 of the old value (R137). -/
def shiftedOutLow (t : Byte) : Byte := flagByte (t.getLsbD 0)

/-- SHL: bit 7 of the old value (R139). -/
def shiftedOutHigh (t : Byte) : Byte := flagByte (t.getLsbD 7)

/-- The write order of the flag-writing ALU instructions: V[15] <- flag, then V[x] <- result, so that for x = 15 the
result remains (R86 (c), R130 (d), D11). -/
def State.setFlagThenV (s : State) (flag : Byte) (x : Reg) (result : Byte) : State :=
  (s.setV Config.flagReg flag).setV x result

end Sys2Proof.Machine
end

