-- ==== Sys2Proof/Machine/Alu.lean ====
section
/-! DEFINITION. The register-to-register ALU group of spec/43_alu.md, R131 to R139, under the laws of R130. -/

namespace Sys2Proof.Machine

/-- LD Vx, Vy (R131). -/
def execLdReg (x y : Reg) (s : State) : Result := .next (s.setV x (s.getV y)).advance

/-- OR Vx, Vy: no flag (R132). -/
def execOr (x y : Reg) (s : State) : Result := .next (s.setV x (s.getV x ||| s.getV y)).advance

/-- AND Vx, Vy: no flag (R133). -/
def execAnd (x y : Reg) (s : State) : Result := .next (s.setV x (s.getV x &&& s.getV y)).advance

/-- XOR Vx, Vy: no flag (R134). -/
def execXor (x y : Reg) (s : State) : Result := .next (s.setV x (s.getV x ^^^ s.getV y)).advance

/-- ADD Vx, Vy: carry to the flag (R135). -/
def execAddReg (x y : Reg) (s : State) : Result :=
  .next (s.setFlagThenV (carryFlag (s.getV x) (s.getV y)) x (s.getV x + s.getV y)).advance

/-- SUB Vx, Vy: Vx − Vy, not-borrow to the flag (R136). -/
def execSub (x y : Reg) (s : State) : Result :=
  .next (s.setFlagThenV (notBorrowFlag (s.getV x) (s.getV y)) x (s.getV x - s.getV y)).advance

/-- SHR Vx: V[x] in place, y ignored (R137, D12). -/
def execShr (x _y : Reg) (s : State) : Result :=
  .next (s.setFlagThenV (shiftedOutLow (s.getV x)) x (s.getV x >>> 1)).advance

/-- SUBN Vx, Vy: Vy − Vx, not-borrow to the flag (R138). -/
def execSubn (x y : Reg) (s : State) : Result :=
  .next (s.setFlagThenV (notBorrowFlag (s.getV y) (s.getV x)) x (s.getV y - s.getV x)).advance

/-- SHL Vx: V[x] in place, y ignored (R139, D12). -/
def execShl (x _y : Reg) (s : State) : Result :=
  .next (s.setFlagThenV (shiftedOutHigh (s.getV x)) x (s.getV x <<< 1)).advance

end Sys2Proof.Machine
end

