-- ==== Sys2Proof/Machine/Operands.lean ====
section
/-! DEFINITION. The operand forms of spec/30_encoding.md R63, and the values the F group forms from a register.
`x` and `y` select V[x] and V[y] directly (`State.getV`); `kk` is the byte itself. -/

namespace Sys2Proof.Machine

/-- `nnn`: "a 12-bit unsigned address, zero-extended to 16 bits where it is loaded into pc or I" (R63). -/
def addressOperand (nnn : BitVec 12) : Word := nnn.zeroExtend 16

/-- A register's byte, zero-extended to 16 bits (R109, R173, R174). -/
def State.wideV (s : State) (r : Reg) : Word := (s.getV r).zeroExtend 16

/-- `n`: "a 4-bit unsigned count of sprite rows, 0 to 15" (R63). -/
def rowCount (n : BitVec 4) : Nat := n.toNat

/-- `x` of a register-block instruction: V[0] to V[x] inclusive, x + 1 bytes (R176, R177, D16). -/
def blockCount (x : Reg) : Nat := x.val + 1

/-- V[0] to V[x], the lowest first (R176). -/
def State.blockBytes (s : State) (x : Reg) : List Byte := s.v.toList.take (blockCount x)

/-- V[x] as a key number: none above 15, with no masking (R163, D17). -/
def State.keyNumber (s : State) (x : Reg) : Option Reg :=
  if h : (s.getV x).toNat < 16 then some ⟨(s.getV x).toNat, h⟩ else none

/-- The address of the glyph for a byte: `Vx * 5`, not masked to a digit (R174). -/
def glyphAddress (b : Byte) : Word := b.zeroExtend 16 * 5

/-- Hundreds, tens and ones of a byte (R175). -/
def decimalDigits (b : Byte) : List Byte :=
  [BitVec.ofNat 8 (b.toNat / 100), BitVec.ofNat 8 (b.toNat / 10 % 10), BitVec.ofNat 8 (b.toNat % 10)]

end Sys2Proof.Machine
end

