-- ==== Sys2Proof/Machine/ControlFlow.lean ====
section
/-! DEFINITION. The control-flow instructions of spec/41_control_flow.md, R101 to R109. -/

namespace Sys2Proof.Machine

/-- SYS nnn: always UnrecognizedInstruction (R69, R101, D5). -/
def execSys (_nnn : BitVec 12) (s : State) : Result := raise .unrecognizedInstruction s

/-- RET: pop the call stack into pc (R102, R18). -/
def execRet (s : State) : Result :=
  match s.pop with
  | some (target, popped) => .next (popped.setPc target)
  | none => raise .stackUnderflow s

/-- JP nnn: pc <- nnn (R103). -/
def execJp (nnn : BitVec 12) (s : State) : Result := .next (s.setPc (addressOperand nnn))

/-- CALL nnn: push pc + 2, then pc <- nnn (R104, R18). -/
def execCall (nnn : BitVec 12) (s : State) : Result :=
  match s.push s.returnAddress with
  | some pushed => .next (pushed.setPc (addressOperand nnn))
  | none => raise .stackOverflow s

/-- SE Vx, kk: skip if equal (R105). -/
def execSeByte (x : Reg) (kk : Byte) (s : State) : Result := .next (s.skipIf (s.getV x == kk))

/-- SNE Vx, kk: skip if not equal (R106). -/
def execSneByte (x : Reg) (kk : Byte) (s : State) : Result := .next (s.skipIf (s.getV x != kk))

/-- SE Vx, Vy: skip if equal (R107). -/
def execSeReg (x y : Reg) (s : State) : Result := .next (s.skipIf (s.getV x == s.getV y))

/-- SNE Vx, Vy: skip if not equal (R108). -/
def execSneReg (x y : Reg) (s : State) : Result := .next (s.skipIf (s.getV x != s.getV y))

/-- JP V0, nnn: pc <- nnn + V[0] in 16 bits (R109). -/
def execJpV0 (nnn : BitVec 12) (s : State) : Result := .next (s.setPc (addressOperand nnn + s.wideV 0))

end Sys2Proof.Machine
end

