-- ==== Sys2Proof/Machine/Display.lean ====
section
/-! DEFINITION. The display instructions of spec/45_display.md, R150 and R151. -/

namespace Sys2Proof.Machine

/-- CLS: all 2048 pixels OFF, no flag (R150). -/
def execCls (s : State) : Result := .next (s.setFb Framebuffer.clear).advance

/-- The framebuffer after the sprite of R151, and whether any pixel went from ON to OFF. Every operand is read from
the state before the instruction (R86 (a)). -/
def State.drawn (s : State) (x y : Reg) (n : BitVec 4) : Framebuffer × Bool :=
  Framebuffer.drawSprite (s.getV x).toNat (s.getV y).toNat 0
    (s.mem.readBytes (s.indexAddress 0) (rowCount n)) (s.fb, false)

/-- DRW Vx, Vy, n: XOR the sprite into the framebuffer and write the collision flag, also when n = 0 (R151, D30). -/
def execDrw (x y : Reg) (n : BitVec 4) (s : State) : Result :=
  s.checkedAccess (rowCount n)
    ((s.setFb (s.drawn x y n).1).setV Config.flagReg (flagByte (s.drawn x y n).2)).advance

end Sys2Proof.Machine
end

