-- ==== Sys2Proof/Machine/FGroup.lean ====
section
/-! DEFINITION. The F group of spec/47_timers_index_memory.md, R170 to R178: timers, index arithmetic, font, BCD,
register block. LD Vx, K stands in Machine/Keypad.lean. -/

namespace Sys2Proof.Machine

/-- LD Vx, DT (R170). -/
def execLdVxDt (x : Reg) (s : State) : Result := .next (s.setV x s.dt).advance

/-- LD DT, Vx (R171). -/
def execLdDtVx (x : Reg) (s : State) : Result := .next (s.setDt (s.getV x)).advance

/-- LD ST, Vx (R172). -/
def execLdStVx (x : Reg) (s : State) : Result := .next (s.setSt (s.getV x)).advance

/-- ADD I, Vx: modulo 65536, no flag (R173, D13, D14). -/
def execAddI (x : Reg) (s : State) : Result := .next (s.setI (s.i + s.wideV x)).advance

/-- LD F, Vx: I <- V[x] * 5 (R174). -/
def execLdF (x : Reg) (s : State) : Result := .next (s.setI (glyphAddress (s.getV x))).advance

/-- LD B, Vx: three decimal digits at I, I + 1, I + 2 (R175). -/
def execLdB (x : Reg) (s : State) : Result :=
  s.checkedAccess 3 (s.storeBytes (decimalDigits (s.getV x))).advance

/-- LD [I], Vx: V[0] to V[x] inclusive, I unchanged (R176, D16). -/
def execStoreRegs (x : Reg) (s : State) : Result :=
  s.checkedAccess (blockCount x) (s.storeBytes (s.blockBytes x)).advance

/-- V[0] to V[x] from memory at I upward, the others as they were (R177). -/
def State.loadedBlock (s : State) (x : Reg) : Vector Byte 16 :=
  Vector.ofFn fun k => if k ≤ x then s.mem.read (s.indexAddress k.val) else s.getV k

/-- LD Vx, [I]: V[0] to V[x] inclusive, I unchanged (R177, D16). -/
def execLoadRegs (x : Reg) (s : State) : Result :=
  s.checkedAccess (blockCount x) (s.setVs (s.loadedBlock x)).advance

end Sys2Proof.Machine
end

