-- ==== Sys2Proof/Machine/Immediate.lean ====
section
/-! DEFINITION. The immediate, index and random instructions of spec/42_immediate_index_random.md, R120 to R123. -/

namespace Sys2Proof.Machine

/-- LD Vx, kk (R120). -/
def execLdByte (x : Reg) (kk : Byte) (s : State) : Result := .next (s.setV x kk).advance

/-- ADD Vx, kk: modulo 256, no flag (R121). -/
def execAddByte (x : Reg) (kk : Byte) (s : State) : Result := .next (s.setV x (s.getV x + kk)).advance

/-- LD I, nnn (R122). -/
def execLdI (nnn : BitVec 12) (s : State) : Result := .next (s.setI (addressOperand nnn)).advance

/-- RND Vx, kk: a random byte AND kk (R123). -/
def execRnd (x : Reg) (kk : Byte) (s : State) : Result :=
  .next (s.drawByte.2.setV x (s.drawByte.1 &&& kk)).advance

end Sys2Proof.Machine
end

