-- ==== Sys2Proof/Machine/Keypad.lean ====
section
/-! DEFINITION. The keypad instructions of spec/46_keypad.md, R160 to R163. -/

namespace Sys2Proof.Machine

/-- SKP Vx: skip if key V[x] is held; a number above 15 is fatal (R160, R163). -/
def execSkp (x : Reg) (s : State) : Result :=
  match s.keyNumber x with
  | some k => .next (s.skipIf (s.key k))
  | none => raise .keyIndexOutOfRange s

/-- SKNP Vx: skip if key V[x] is not held; a number above 15 is fatal (R161, R163). -/
def execSknp (x : Reg) (s : State) : Result :=
  match s.keyNumber x with
  | some k => .next (s.skipIf (!s.key k))
  | none => raise .keyIndexOutOfRange s

/-- LD Vx, K: the Step sets the mode and advances pc; a later KeyPoll writes V[x] (R162, D18). -/
def execLdVxK (x : Reg) (s : State) : Result := .next (s.setMode (.awaitingKey x)).advance

end Sys2Proof.Machine
end

