-- ==== Sys2Proof/Machine/Engine.lean ====
section
/-! DEFINITION. The Step event: fetch, decode, execute (spec/40_execution_engine.md R82 to R89). -/

namespace Sys2Proof.Machine

/-- Fetch: the big-endian word at pc and pc + 1, none when `pc > 4094` (R83, D32). `pc + 1` is not truncated. -/
def State.fetch (s : State) : Option Word :=
  match s.memRead s.pc.toNat, s.memRead (s.pc.toNat + 1) with
  | some hi, some lo => some (joinBytes hi lo)
  | _, _ => none

/-- One instruction: the checks in the order fetch, decode, execute (R83 to R85, R89). -/
def State.runInstruction (s : State) : Result :=
  match s.fetch with
  | none => raise .memoryOutOfRange s
  | some w =>
    match decode w with
    | .error _ => raise .unrecognizedInstruction s
    | .ok i => exec i s

/-- The Step event by mode: Running executes one instruction, AwaitingKey and Halted change nothing (R82, D29). -/
def stepEvent (s : State) : Result :=
  match s.mode with
  | .running => s.runInstruction
  | .awaitingKey _ => .next s
  | .halted _ => .next s

end Sys2Proof.Machine
end

