-- ==== Sys2Proof/Machine/Events.lean ====
section
/-! DEFINITION. The host's side: the events Reset, Tick and KeyPoll, the loader port, program load, and the order of
events presented together (spec/40_execution_engine.md R80, R81, R93; spec/60_exceptions.md R209, R213 to R216;
spec/70_reset_and_hazards.md R240 to R247). -/

namespace Sys2Proof.Machine

/-- Reset: every piece of the spec's state to the value of R28, in any mode (R240). The host's list of pending
inputs and the count of draws are not the core's and go on (logs 3, 4). -/
def resetEvent (s : State) : State := (State.reset.setInputs s.inputs).setDraws s.draws

/-- A timer's Tick: minus 1 while above 0 (R213). -/
def tickTimer (t : Byte) : Byte := if 0 < t.toNat then t - 1 else t

/-- Tick: both timers, in Running and AwaitingKey; nothing in Halted (R213, R209). -/
def tickEvent (s : State) : State :=
  match s.mode with
  | .halted _ => s
  | .running | .awaitingKey _ => (s.setDt (tickTimer s.dt)).setSt (tickTimer s.st)

/-- `min { j | old[j] = 0 and new[j] = 1 }`, none when the set is empty (R216, D18). -/
def lowestNewKey (old new : BitVec 16) : Option Reg :=
  (List.finRange 16).find? fun j => !old.getLsb j && new.getLsb j

/-- Wait resolution, with the latch still holding the previous sample (R216). -/
def resolveWait (sample : BitVec 16) (s : State) : State :=
  match s.mode with
  | .awaitingKey x =>
    match lowestNewKey s.keys sample with
    | some k => (s.setV x (BitVec.ofNat 8 k.val)).setMode .running
    | none => s
  | .running | .halted _ => s

/-- KeyPoll: the wait resolution, then the whole latch replaced; nothing in Halted (R215, R209). -/
def keyPollEvent (sample : BitVec 16) (s : State) : State :=
  match s.mode with
  | .halted _ => s
  | .running | .awaitingKey _ => (resolveWait sample s).setKeys sample

/-- A byte through the loader port: `mem[addr] <- data` and nothing else (R245), only between Reset and the first
Step (R93, R94, U19). Logs 5, 6. -/
def loaderWriteEvent (addr : BitVec 12) (data : Byte) (s : State) : Result :=
  if s.loadPhase then .next (s.setMem (s.mem.write addr.toNat data)) else .refused .loaderWriteAfterFirstStep

/-- One input, applied completely (R81). A Step ends the load phase. -/
def applyInput (e : Input) (s : State) : Result :=
  match e with
  | .reset => .next (resetEvent s)
  | .step => stepEvent (s.setLoadPhase false)
  | .tick => .next (tickEvent s)
  | .keyPoll sample => .next (keyPollEvent sample s)
  | .loaderWrite addr data => loaderWriteEvent addr data s

/-- Events presented at the same instant, in the order KeyPoll, Step, Tick (R81, D27). -/
def presentedTogether (sample : Option (BitVec 16)) (stepEn tickEn : Bool) : List Input :=
  (match sample with
   | some k => [.keyPoll k]
   | none => []) ++ (if stepEn then [.step] else []) ++ (if tickEn then [.tick] else [])

/-- Why no launch state exists (R206, R246). -/
inductive LoadError where
  /-- "Program too large for remaining memory": more than 3584 bytes. -/
  | programTooLarge
deriving DecidableEq, Repr

/-- The launch state of a program: the reset state with the bytes at 0x200 upward, or the load error of a program of
more than 3584 bytes, which writes nothing (R245 to R247). -/
def launch (prog : List Byte) : Except LoadError State :=
  if prog.length ≤ Config.progMax then
    .ok (State.reset.setMem (State.reset.mem.writeBytes Config.progBase prog))
  else .error .programTooLarge

/-- The loader port's writes of bytes from an address upward (R93, R245). -/
def loaderWrites (a : Nat) : List Byte → List Input
  | [] => []
  | b :: bs => .loaderWrite (BitVec.ofNat 12 a) b :: loaderWrites (a + 1) bs

end Sys2Proof.Machine
end

