-- ==== Sys2Proof/Machine/Outputs.lean ====
section
/-! DEFINITION. The output ports of spec/40_execution_engine.md R93 as functions of the state (spec/60_exceptions.md
R222 to R224); the host reads them between events and reading changes nothing (spec/20_memory.md R51). -/

namespace Sys2Proof.Machine

/-- `fb_out`: bit `row * 64 + col` is `fb[row][col]` (R222, D21). -/
def State.fbOut (s : State) : Vector Bool 2048 :=
  Vector.ofFn fun k => s.pixel (wrapRow (k.val / 64)) (wrapCol k.val)

/-- `tone`: 1 exactly when ST is not 0 (R223). -/
def State.tone (s : State) : Bool := s.st != 0

/-- `running` (R224). -/
def State.isRunning (s : State) : Bool :=
  match s.mode with
  | .running => true
  | .awaitingKey _ | .halted _ => false

/-- `awaiting` (R224). -/
def State.isAwaiting (s : State) : Bool :=
  match s.mode with
  | .awaitingKey _ => true
  | .running | .halted _ => false

/-- `halted` (R224). -/
def State.isHalted (s : State) : Bool :=
  match s.mode with
  | .halted _ => true
  | .running | .awaitingKey _ => false

/-- `await_reg`: x while AwaitingKey(x), else 0 (R224). -/
def State.awaitReg (s : State) : BitVec 4 :=
  match s.mode with
  | .awaitingKey x => BitVec.ofNat 4 x.val
  | .running | .halted _ => 0

/-- The five codes of R27. -/
def Cause.code : Cause → BitVec 3
  | .unrecognizedInstruction => 1
  | .stackUnderflow => 2
  | .stackOverflow => 3
  | .memoryOutOfRange => 4
  | .keyIndexOutOfRange => 5

/-- `cause`: the code while Halted, else 0 (R224). -/
def State.causeOut (s : State) : BitVec 3 :=
  match s.mode with
  | .halted c => c.code
  | .running | .awaitingKey _ => 0

end Sys2Proof.Machine
end

