-- ==== Sys2Proof/Machine/Step.lean ====
section
/-! DEFINITION. One step of the core: the next pending input of the host, or a Step event when none is pending
(spec/40_execution_engine.md R80 to R82). -/

namespace Sys2Proof.Machine

/-- Take the next input off the host's list and apply it; an empty list stands for a Step event. Log 4. -/
def step (s : State) : Host.Outcome State Fault Refusal :=
  match s.inputs with
  | [] => applyInput .step s
  | e :: rest => applyInput e (s.setInputs rest)

/-- The state with the word `w` (bits above `nbits` zero) where the next step fetches: both bytes at pc, mode Running
and no input pending before that Step; pc itself is kept unless nothing can be fetched from it (pc > 4094), when it
is `PROG_BASE`. Log 8. -/
def State.withFetchWord (s : State) (nbits w : Nat) : State :=
  let word := BitVec.ofNat 16 (w % 2 ^ nbits)
  let pc := if s.pc.toNat + 1 ≤ Config.addrMax then s.pc else BitVec.ofNat 16 Config.progBase
  (((s.setPc pc).setMem (s.mem.writeBytes pc.toNat [highByte word, lowByte word])).setMode .running).setInputs []

end Sys2Proof.Machine
end

