-- ==== Sys2Proof/Safety.lean ====
section
/-! DEFINITION. The terms the statements are written in: when an instruction executes, what it may write, the frame
that follows, which input the next step takes, and the invariants of the machine. -/

namespace Sys2Proof.Machine

/-! ## When an instruction executes (spec/40_execution_engine.md R89) -/

/-- The instruction selects an executing row and passes its one execute-time check, if it has one: "RET checks the
stack for underflow, CALL for overflow, DRW, LD B, LD [I] and LD Vx,[I] check their highest address, SKP and SKNP check
the key index; every other instruction has none" (R89). SYS never executes (R69, R101). -/
def Executes (i : Instr) (s : State) : Prop :=
  match i with
  | .sys _ => False
  | .ret => 0 < s.sp.val
  | .call _ => s.sp.val < 16
  | .drw _ _ n => n.toNat = 0 ∨ s.i.toNat + n.toNat - 1 ≤ 4095
  | .ldB _ => s.i.toNat + 2 ≤ 4095
  | .storeRegs x | .loadRegs x => s.i.toNat + x.val ≤ 4095
  | .skp x | .sknp x => (s.getV x).toNat ≤ 15
  | .cls | .jp _ | .seByte _ _ | .sneByte _ _ | .seReg _ _ | .ldByte _ _ | .addByte _ _ => True
  | .ldReg _ _ | .or _ _ | .and _ _ | .xor _ _ | .addReg _ _ | .sub _ _ | .shr _ _ | .subn _ _ | .shl _ _ => True
  | .sneReg _ _ | .ldI _ | .jpV0 _ | .rnd _ _ | .ldVxDt _ | .ldVxK _ | .ldDtVx _ | .ldStVx _ | .addI _ | .ldF _ => True

/-- The cause that an instruction which does not execute raises (R101, R102, R104, R163, R204). -/
def fatalCause (i : Instr) : Cause :=
  match i with
  | .sys _ => .unrecognizedInstruction
  | .ret => .stackUnderflow
  | .call _ => .stackOverflow
  | .skp _ | .sknp _ => .keyIndexOutOfRange
  | _ => .memoryOutOfRange

/-! ## What an instruction may write (spec/10_state.md R11, R12, R16 to R23)

A wildcard here says that the instruction does NOT write the piece of state, so an instruction put under it by mistake
makes the frame stronger, and false. -/

/-- The six instructions that write V[15] as a flag (R11). -/
def writesFlag (i : Instr) : Prop :=
  match i with
  | .addReg _ _ | .sub _ _ | .shr _ _ | .subn _ _ | .shl _ _ | .drw _ _ _ => True
  | _ => False

/-- The destination registers, the flag write aside (R12). LD Vx, K writes none at its own Step (R162). -/
def writesDestination (i : Instr) (r : Reg) : Prop :=
  match i with
  | .ldByte x _ | .addByte x _ | .rnd x _ | .ldVxDt x => r = x
  | .ldReg x _ | .or x _ | .and x _ | .xor x _ | .addReg x _ | .sub x _ | .shr x _ | .subn x _ | .shl x _ => r = x
  | .loadRegs x => r ≤ x
  | _ => False

/-- The general registers an instruction may change (R11, R12). -/
def writesV (i : Instr) (r : Reg) : Prop := writesDestination i r ∨ (writesFlag i ∧ r = 15)

/-- The instructions that write I (R16). -/
def writesI (i : Instr) : Prop :=
  match i with
  | .ldI _ | .addI _ | .ldF _ => True
  | _ => False

/-- The addresses an instruction stores to: I to I + 2 for LD B, I to I + x for LD [I], Vx (R48, R175, R176), by the
address function the meanings use. -/
def storesTo (i : Instr) (s : State) (a : Nat) : Prop :=
  match i with
  | .ldB _ => s.indexAddress 0 ≤ a ∧ a < s.indexAddress 3
  | .storeRegs x => s.indexAddress 0 ≤ a ∧ a < s.indexAddress (blockCount x)
  | _ => False

/-- The 1-bits of the sprite of DRW that fall on a pixel: sprite row r, sprite column c, bit 7 − c of the byte at I + r
(R151). -/
def State.spriteOn (s : State) (x y : Reg) (n : BitVec 4) (row : Fin 32) (col : Fin 64) : Prop :=
  ∃ r < n.toNat, ∃ c < 8,
    row.val = ((s.getV y).toNat + r) % 32 ∧ col.val = ((s.getV x).toNat + c) % 64 ∧
      (s.mem.read (s.i.toNat + r)).getLsbD (7 - c) = true

/-- The pixels an instruction may change: all of them for CLS, those under a 1-bit of the sprite for DRW (R22, R55). -/
def writesPixel (i : Instr) (s : State) (row : Fin 32) (col : Fin 64) : Prop :=
  match i with
  | .cls => True
  | .drw x y n => s.spriteOn x y n row col
  | _ => False

/-- The frame of an instruction that executes: every piece of state but pc is unchanged unless the spec says that the
instruction writes it. The last two fields are the model's own. -/
structure Frame (i : Instr) (s t : State) : Prop where
  v : ∀ r, ¬ writesV i r → t.getV r = s.getV r
  index : ¬ writesI i → t.i = s.i
  stack : ∀ j : Fin 16, ¬ ((∃ nnn, i = .call nnn) ∧ j.val = s.sp.val) → t.stackEntry j = s.stackEntry j
  sp : ¬ (i = .ret ∨ ∃ nnn, i = .call nnn) → t.sp = s.sp
  dt : ¬ (∃ x, i = .ldDtVx x) → t.dt = s.dt
  st : ¬ (∃ x, i = .ldStVx x) → t.st = s.st
  mem : ∀ a, ¬ storesTo i s a → t.mem.read a = s.mem.read a
  pixels : ∀ row col, ¬ writesPixel i s row col → t.pixel row col = s.pixel row col
  keys : t.keys = s.keys
  mode : ¬ (∃ x, i = .ldVxK x) → t.mode = s.mode
  draws : ¬ (∃ x kk, i = .rnd x kk) → t.draws = s.draws
  host : t.inputs = s.inputs ∧ t.loadPhase = s.loadPhase

/-! ## Steps -/

/-- The input the next step takes: the host's next one, a Step when none is pending. -/
def State.nextInput (s : State) : Input := s.inputs.headD .step

/-- The state a Step event works on: its own input taken off the list, the load phase over. -/
def State.atStep (s : State) : State := (s.setInputs s.inputs.tail).setLoadPhase false

/-- The host presents a Step and the core is Running on a fetchable, recognized word. -/
def State.aboutToRun (s : State) (i : Instr) : Prop :=
  s.nextInput = .step ∧ s.mode = .running ∧ ∃ w, s.fetch = some w ∧ decode w = .ok i

/-- Two states that differ at most in the entries of the call stack at and above sp: "Entries at positions ≥ sp are not
observable by any instruction" (R17). -/
def State.sameButDeadEntries (s t : State) : Prop :=
  (∀ j : Fin 16, j.val < s.sp.val → t.stackEntry j = s.stackEntry j) ∧ { t with stack := s.stack } = s

/-- The latch after inputs that do not end a wait for a key: Steps, Ticks, and KeyPolls that show no key going from up
(in the latch) to down (R82, R213, R216). None when one of them is something else. -/
def quietLatch (latch : BitVec 16) : List Input → Option (BitVec 16)
  | [] => some latch
  | .step :: rest => quietLatch latch rest
  | .tick :: rest => quietLatch latch rest
  | .keyPoll k :: rest => if k &&& ~~~latch = 0 then quietLatch k rest else none
  | .reset :: _ => none
  | .loaderWrite _ _ :: _ => none

/-! ## Invariants -/

/-- Memory is in canonical form. -/
def State.memoryCanonical (s : State) : Prop := s.mem.wf

/-- The bounds of R15 and R102: pc is at most 0x10FE, and every valid stack entry is a `pc + 2` of some CALL, so
at least 2 and at most 4096. -/
def State.controlBounded (s : State) : Prop :=
  s.pc.toNat ≤ 0x10FE ∧ ∀ j : Fin 16, j.val < s.sp.val → 2 ≤ (s.stackEntry j).toNat ∧ (s.stackEntry j).toNat ≤ 4096

/-- Between Reset and the first Step the core is as Reset left it, but for memory (the loader), the key latch (KeyPolls)
and the host's inputs and draws (R243, R245). -/
def State.freshWhileLoading (s : State) : Prop :=
  s.loadPhase = true →
    s = (((State.reset.setMem s.mem).setKeys s.keys).setInputs s.inputs).setDraws s.draws

end Sys2Proof.Machine
end

