-- ==== Sys2Proof/Certificates/Slice0/Obligations.lean ====
section
/-! DEFINITION. The statements for the provers, each the body of one numbered rule of spec/ or of several. Each
docstring names the rules; where a clause rests on a decision of the spec (D<n>), on a passage it supplies from
general knowledge (G<n>) or on an entry of the assumption log, the docstring says so. -/

open Sys2Proof Sys2Proof.Machine

/-! ## Encoding -/

/-- R64, R66, R75: every well-formed instruction is what its own word decodes to, and its two bytes are all the decoder
takes from a byte string. The bit patterns are D2 and G1. -/
def Obligations.DecodeOfEncode : Prop :=
  ∀ i : Instr, i.wellFormed = true →
    decode (encode i) = .ok i ∧ ∀ rest, decodeBytes (encodeBytes i ++ rest) = .ok (i, rest)

/-- R61, R70, R75: no bit of a recognized word is dropped, the ignored y of SHR and SHL included. -/
def Obligations.EncodeOfDecode : Prop :=
  ∀ (w : Word) (i : Instr), decode w = .ok i → encode i = w ∧ i.wellFormed = true

/-- R64: the decoder by nibbles takes the first row of R66 whose fixed nibbles match, and rejects a word that matches no
row. The match and mask columns are D2 and G1. -/
def Obligations.DecodeTakesFirstMatchingRow : Prop :=
  ∀ w : Word,
    match decode w with
    | .ok i => ∃ r, firstRow w = some r ∧ r.number = i.rowNumber
    | .error _ => firstRow w = none

/-- R67, R68: the words that decode to no row, and the words of the reserved row, are exactly those listed. Patterns D2,
G1; the reserved row D5. -/
def Obligations.RejectedWordsAreThoseListed : Prop :=
  ∀ w : Word,
    ((∃ e, decode w = .error e) ↔
      (w.toNat / 4096 = 0x5 ∧ w.toNat % 16 ≠ 0) ∨ (w.toNat / 4096 = 0x9 ∧ w.toNat % 16 ≠ 0) ∨
      (w.toNat / 4096 = 0x8 ∧ w.toNat % 16 ∈ [0x8, 0x9, 0xA, 0xB, 0xC, 0xD, 0xF]) ∨
      (w.toNat / 4096 = 0xE ∧ w.toNat % 256 ∉ [0x9E, 0xA1]) ∨
      (w.toNat / 4096 = 0xF ∧ w.toNat % 256 ∉ [0x07, 0x0A, 0x15, 0x18, 0x1E, 0x29, 0x33, 0x55, 0x65])) ∧
    ((∃ nnn, decode w = .ok (.sys nnn)) ↔ w.toNat / 4096 = 0x0 ∧ w.toNat ≠ 0x00E0 ∧ w.toNat ≠ 0x00EE)

/-- R75's own examples, and one word of each other format of R62 (sanity). -/
def Obligations.SampleWordsDecode : Prop :=
  decode 0x8344 = .ok (.addReg 3 4) ∧ decode 0xDAB5 = .ok (.drw 10 11 5) ∧ decode 0xF265 = .ok (.loadRegs 2) ∧
  decode 0x1204 = .ok (.jp 0x204) ∧ decode 0x00E0 = .ok .cls ∧ decode 0x6A3E = .ok (.ldByte 10 0x3E) ∧
  decode 0xE59E = .ok (.skp 5)

/-! ## The engine -/

/-- R83 to R85, R45: in Running, when the host presents a Step, the big-endian word at pc and pc + 1 is decoded and the
instruction's meaning applied. Around it the model only takes the Step off its own list of inputs and ends its load
phase (`atStep`, logs 4 and 5). -/
def Obligations.StepRunsDecodedInstruction : Prop :=
  ∀ (s : State) (i : Instr), s.nextInput = .step → s.mode = .running → s.pc.toNat ≤ 4094 →
    decode (s.mem.read s.pc.toNat ++ s.mem.read (s.pc.toNat + 1)) = .ok i → step s = exec i s.atStep

/-- R83: a fetch with pc above 4094 raises MemoryOutOfRange (D32). -/
def Obligations.FetchAboveMemoryHalts : Prop :=
  ∀ s : State, s.nextInput = .step → s.mode = .running → 4094 < s.pc.toNat →
    step s = .next (s.atStep.setMode (.halted .memoryOutOfRange))

/-- R68, R69, R84, R201: a fetched word that selects no executing row, the reserved 0nnn included, raises
UnrecognizedInstruction (D5, D6). -/
def Obligations.UnrecognizedWordHalts : Prop :=
  ∀ (s : State) (w : Word), s.nextInput = .step → s.mode = .running → s.pc.toNat ≤ 4094 →
    w = s.mem.read s.pc.toNat ++ s.mem.read (s.pc.toNat + 1) →
    ((∃ e, decode w = .error e) ∨ ∃ nnn, decode w = .ok (.sys nnn)) →
    step s = .next (s.atStep.setMode (.halted .unrecognizedInstruction))

/-- R82: a Step in AwaitingKey or Halted changes nothing (D29, D26). -/
def Obligations.StepOutsideRunningChangesNothing : Prop :=
  ∀ s : State, s.nextInput = .step → s.mode ≠ .running → step s = .next s.atStep

/-- R209, R210: in Halted no event but Reset changes any state, over any number of steps (D26). Premise: the load phase
is over, as it is in every halted state a run reaches (`EveryStepKeepsFreshWhileLoading`). -/
def Obligations.HaltedIsFrozenUntilReset : Prop :=
  ∀ (n : Nat) (s t : State) (c : Cause), s.mode = .halted c → s.loadPhase = false → Input.reset ∉ s.inputs →
    Sys2Proof.core.run n s = .next t → t = s.setInputs t.inputs

/-- R26: the mode changes exactly by the listed transitions (the wait protocol is D18, D29). -/
def Obligations.ModeChangesOnlyAsListed : Prop :=
  ∀ s t : State, step s = .next t →
    (s.nextInput = .reset → t.mode = .running) ∧
    match s.mode with
    | .running =>
      t.mode = .running ∨
        (s.nextInput = .step ∧ ((∃ x, s.aboutToRun (.ldVxK x) ∧ t.mode = .awaitingKey x) ∨ ∃ c, t.mode = .halted c))
    | .awaitingKey x =>
      t.mode = .awaitingKey x ∨
        (t.mode = .running ∧
          (s.nextInput = .reset ∨
            ∃ k : BitVec 16, s.nextInput = .keyPoll k ∧ ∃ j : Reg, s.key j = false ∧ k.getLsb j = true))
    | .halted c => t.mode = .halted c ∨ (t.mode = .running ∧ s.nextInput = .reset)

/-- R87, R208: a Step that ends Halted has changed nothing but the mode (D15, D25). -/
def Obligations.FatalStepIsPrecise : Prop :=
  ∀ (s t : State) (c : Cause), s.nextInput = .step → s.mode = .running → step s = .next t → t.mode = .halted c →
    t = s.atStep.setMode (.halted c)

/-- R89: an instruction whose check fails raises its one cause, and changes nothing else (R208; D7, D15, D17). -/
def Obligations.FailedCheckRaisesItsCause : Prop :=
  ∀ (i : Instr) (s : State), ¬ Executes i s → exec i s = .next (s.setMode (.halted (fatalCause i)))

/-- R85, R89: an instruction whose check passes completes, and the mode stays, except that LD Vx, K suspends. -/
def Obligations.PassedCheckCompletes : Prop :=
  ∀ (i : Instr) (s : State), Executes i s →
    ∃ t, exec i s = .next t ∧ ((t.mode = s.mode ∧ ∀ x, i ≠ .ldVxK x) ∨ ∃ x, i = .ldVxK x ∧ t.mode = .awaitingKey x)

/-- R14, R88: the program counter's outcome of every instruction, and that a fatal condition (of the instruction, and of the
whole Step, its fetch and decode included), a Tick and a KeyPoll leave it alone. What SE, SNE, SKP and SKNP test is G5. -/
def Obligations.ProgramCounterOutcome : Prop :=
  (∀ (i : Instr) (s t : State), Executes i s → exec i s = .next t →
    match i with
    | .jp nnn | .call nnn => t.pc.toNat = nnn.toNat
    | .jpV0 nnn => t.pc.toNat = nnn.toNat + (s.getV 0).toNat
    | .ret => ∀ j : Fin 16, j.val + 1 = s.sp.val → t.pc = s.stackEntry j
    | .seByte x kk => t.pc = s.pc + if s.getV x = kk then 4 else 2
    | .sneByte x kk => t.pc = s.pc + if s.getV x ≠ kk then 4 else 2
    | .seReg x y => t.pc = s.pc + if s.getV x = s.getV y then 4 else 2
    | .sneReg x y => t.pc = s.pc + if s.getV x ≠ s.getV y then 4 else 2
    | .skp x => ∀ k : Reg, k.val = (s.getV x).toNat → t.pc = s.pc + if s.key k = true then 4 else 2
    | .sknp x => ∀ k : Reg, k.val = (s.getV x).toNat → t.pc = s.pc + if s.key k = false then 4 else 2
    | _ => t.pc = s.pc + 2) ∧
  (∀ (i : Instr) (s t : State), ¬ Executes i s → exec i s = .next t → t.pc = s.pc) ∧
  (∀ (s t : State) (c : Cause), s.nextInput = .step → s.mode = .running → step s = .next t → t.mode = .halted c →
    t.pc = s.pc) ∧
  (∀ (s t : State), s.nextInput = .tick ∨ (∃ k, s.nextInput = .keyPoll k) → step s = .next t → t.pc = s.pc)

/-! ## Invariants that every step keeps -/

/-- R40 to R43: memory stays a canonical list of bytes at addresses 0 to 4095. The list form is the model's (log 9). -/
def Obligations.EveryStepKeepsMemoryCanonical : Prop :=
  ∀ s t : State, s.memoryCanonical → step s = .next t → t.memoryCanonical

/-- R15, R102: pc stays at most 0x10FE, and every valid stack entry is between 2 and 4096. -/
def Obligations.EveryStepKeepsControlBounded : Prop :=
  ∀ s t : State, s.controlBounded → step s = .next t → t.controlBounded

/-- R243, R245: until the first Step the core is as Reset left it, but for memory and the key latch. The load phase is the
model's own field (log 5). -/
def Obligations.EveryStepKeepsFreshWhileLoading : Prop :=
  ∀ s t : State, s.freshWhileLoading → step s = .next t → t.freshWhileLoading

/-- R28: the reset state meets the three invariants. -/
def Obligations.ResetMeetsInvariants : Prop :=
  State.reset.memoryCanonical ∧ State.reset.controlBounded ∧ State.reset.freshWhileLoading

/-! ## Who may change what, over whole steps -/

/-- R12, R216, R240: a general register changes only by Reset, by an instruction that writes it, or by the KeyPoll that
delivers a key to it (D13, D18). -/
def Obligations.RegistersChangeOnlyByTheirWriters : Prop :=
  ∀ (s t : State) (r : Reg), step s = .next t → t.getV r ≠ s.getV r →
    s.nextInput = .reset ∨ (∃ i, s.aboutToRun i ∧ writesV i r) ∨
      ∃ k, s.nextInput = .keyPoll k ∧ s.mode = .awaitingKey r

/-- R21, R48, R93: a byte of memory changes only by Reset, by the loader port at that address, or by LD B or LD [I], Vx
storing to it. -/
def Obligations.MemoryChangesOnlyByItsWriters : Prop :=
  ∀ (s t : State) (a : Nat), s.memoryCanonical → step s = .next t → t.mem.read a ≠ s.mem.read a →
    s.nextInput = .reset ∨ (∃ addr data, s.nextInput = .loaderWrite addr data ∧ addr.toNat = a) ∨
      ∃ i, s.aboutToRun i ∧ storesTo i s a

/-- R22, R55: a pixel changes only by Reset, by CLS, or by DRW under a 1-bit of its sprite (bit order D20). -/
def Obligations.PixelsChangeOnlyByTheirWriters : Prop :=
  ∀ (s t : State) (row : Fin 32) (col : Fin 64), step s = .next t → t.pixel row col ≠ s.pixel row col →
    s.nextInput = .reset ∨ ∃ i, s.aboutToRun i ∧ writesPixel i s row col

/-- R19, R20, R23: DT and ST change only by Reset, a Tick or their one instruction; the key latch only by Reset and
KeyPoll. -/
def Obligations.TimersAndKeysChangeOnlyByTheirWriters : Prop :=
  ∀ s t : State, step s = .next t →
    (t.dt ≠ s.dt → s.nextInput = .reset ∨ s.nextInput = .tick ∨ ∃ x, s.aboutToRun (.ldDtVx x)) ∧
    (t.st ≠ s.st → s.nextInput = .reset ∨ s.nextInput = .tick ∨ ∃ x, s.aboutToRun (.ldStVx x)) ∧
    (t.keys ≠ s.keys → s.nextInput = .reset ∨ s.nextInput = .keyPoll t.keys)

/-- R20, R30: "read by no instruction": two runs that differ only in ST differ in nothing else, whatever the host
presents. -/
def Obligations.SoundTimerInfluencesNothing : Prop :=
  ∀ (n : Nat) (s t : State) (b : Byte), Sys2Proof.core.run n s = .next t →
    ∃ t', Sys2Proof.core.run n (s.setSt b) = .next t' ∧ t'.setSt 0 = t.setSt 0

/-- R17: two runs whose states differ only in stack entries at and above sp go on alike, whatever the host presents. -/
def Obligations.DeadStackEntriesAreUnobservable : Prop :=
  ∀ (n : Nat) (s s' t : State), s.sameButDeadEntries s' → Sys2Proof.core.run n s = .next t →
    ∃ t', Sys2Proof.core.run n s' = .next t' ∧ t.sameButDeadEntries t'

/-! ## Reset, load, events, outputs -/

/-- R28, R47, R240: what the Reset event leaves, from any state and mode (D22 to D24; the font G4). The stack entries, which
R28 leaves unspecified, are not mentioned. -/
def Obligations.ResetEventLeaves : Prop :=
  ∀ s : State, s.nextInput = .reset →
    ∃ t, step s = .next t ∧ t.pc = 0x0200 ∧ (∀ row col, t.pixel row col = false) ∧ t.sp = 0 ∧
      (∀ r, t.getV r = 0) ∧ t.i = 0 ∧ t.dt = 0 ∧ t.st = 0 ∧ (∀ k, t.key k = false) ∧ t.mode = .running ∧
      (∀ a, 0x50 ≤ a → t.mem.read a = 0) ∧
      (List.range 80).map t.mem.read =
        [0xF0, 0x90, 0x90, 0x90, 0xF0, 0x20, 0x60, 0x20, 0x20, 0x70, 0xF0, 0x10, 0xF0, 0x80, 0xF0,
         0xF0, 0x10, 0xF0, 0x10, 0xF0, 0x90, 0x90, 0xF0, 0x10, 0x10, 0xF0, 0x80, 0xF0, 0x10, 0xF0] ++
        [0xF0, 0x80, 0xF0, 0x90, 0xF0, 0xF0, 0x10, 0x20, 0x40, 0x40, 0xF0, 0x90, 0xF0, 0x90, 0xF0,
         0xF0, 0x90, 0xF0, 0x10, 0xF0, 0xF0, 0x90, 0xF0, 0x90, 0x90, 0xE0, 0x90, 0xE0, 0x90, 0xE0] ++
        [0xF0, 0x80, 0x80, 0x80, 0xF0, 0xE0, 0x90, 0x90, 0x90, 0xE0, 0xF0, 0x80, 0xF0, 0x80, 0xF0,
         0xF0, 0x80, 0xF0, 0x80, 0x80]

/-- R245: where the program's bytes go, that nothing else changes, that the bytes above it are MEM_FILL (D24), and what an
empty program does at its first Step. -/
def Obligations.LaunchPlacesProgram : Prop :=
  (∀ prog : List Byte, prog.length ≤ 3584 →
    ∃ s, launch prog = .ok s ∧ (∀ k (h : k < prog.length), s.mem.read (0x200 + k) = prog[k]) ∧
      (∀ a, ¬ (0x200 ≤ a ∧ a < 0x200 + prog.length) → s.mem.read a = State.reset.mem.read a) ∧
      (∀ a, 0x200 + prog.length ≤ a → s.mem.read a = 0) ∧
      s = State.reset.setMem s.mem ∧ s.memoryCanonical) ∧
  ∃ s, launch [] = .ok s ∧ s.mem = State.reset.mem ∧
    step s = .next (s.atStep.setMode (.halted .unrecognizedInstruction))

/-- R246, R206: above 3584 bytes there is no launch state. -/
def Obligations.LoadErrorAboveLimit : Prop :=
  ∀ prog : List Byte, launch prog = .error .programTooLarge ↔ 3584 < prog.length

/-- R93, R245, R247: the loader port's byte writes after Reset, one input each, end in the launch state. The port as an
input is the model's rendering (logs 4, 6). -/
def Obligations.LoaderPortReachesLaunchState : Prop :=
  ∀ (prog : List Byte) (rest : List Input), prog.length ≤ 3584 →
    ∃ s, launch prog = .ok s ∧
      Sys2Proof.core.run prog.length (State.reset.setInputs (loaderWrites 0x200 prog ++ rest)) =
        .next (s.setInputs rest)

/-- R94, U19: the loader port is closed by the first Step until the next Reset. The refusal is the model's (log 5). -/
def Obligations.LoaderPortClosesAtFirstStep : Prop :=
  (∀ s t : State, s.nextInput = .step → step s = .next t → t.loadPhase = false) ∧
  (∀ s t : State, s.loadPhase = false → s.nextInput ≠ .reset → step s = .next t → t.loadPhase = false) ∧
  ∀ (s : State) (addr : BitVec 12) (data : Byte), s.loadPhase = false → s.nextInput = .loaderWrite addr data →
    step s = .refused .loaderWriteAfterFirstStep

/-- R213, R170: n Ticks take n from each timer, floored at 0, and change nothing else (D8). -/
def Obligations.TicksCountBothTimersDown : Prop :=
  ∀ (n : Nat) (s : State) (rest : List Input), (∀ c, s.mode ≠ .halted c) →
    s.inputs = List.replicate n .tick ++ rest →
    ∃ t, Sys2Proof.core.run n s = .next t ∧ t.dt.toNat = s.dt.toNat - n ∧ t.st.toNat = s.st.toNat - n ∧
      t = ((s.setDt t.dt).setSt t.st).setInputs rest

/-- R215, R216: a KeyPoll replaces the latch, and ends a wait with the lowest-numbered key that went from up to down
(D18). -/
def Obligations.KeyPollReplacesLatchAndResolvesWait : Prop :=
  ∀ (s : State) (k : BitVec 16) (rest : List Input), s.inputs = .keyPoll k :: rest →
    (s.mode = .running → step s = .next ((s.setInputs rest).setKeys k)) ∧
    ∀ x, s.mode = .awaitingKey x →
      ((∀ j : Reg, ¬ (s.key j = false ∧ k.getLsb j = true)) → step s = .next ((s.setInputs rest).setKeys k)) ∧
      ∀ j : Reg, s.key j = false → k.getLsb j = true →
        (∀ j' : Reg, j'.val < j.val → ¬ (s.key j' = false ∧ k.getLsb j' = true)) →
        ∃ t, step s = .next t ∧ (t.getV x).toNat = j.val ∧ (∀ r, r ≠ x → t.getV r = s.getV r) ∧ t.mode = .running ∧
          t.keys = k ∧ t = (((s.setVs t.v).setMode .running).setKeys k).setInputs rest

/-- R223: `tone` is 1 exactly when ST is not 0. -/
def Obligations.ToneIsSoundTimerNonzero : Prop := ∀ s : State, s.tone = true ↔ s.st.toNat ≠ 0

/-- R222, R224, R27: `fb_out` is row-major (D21), and the status outputs decode the mode (D1; codes D25). -/
def Obligations.OutputsDecodeState : Prop :=
  ∀ s : State,
    (∀ (row : Fin 32) (col : Fin 64) (k : Fin 2048), k.val = row.val * 64 + col.val →
      s.fbOut.get k = s.pixel row col) ∧
    (s.mode = .running → s.isRunning = true ∧ s.isAwaiting = false ∧ s.isHalted = false ∧ s.awaitReg = 0 ∧
      s.causeOut = 0) ∧
    (∀ x : Reg, s.mode = .awaitingKey x → s.isRunning = false ∧ s.isAwaiting = true ∧ s.isHalted = false ∧
      s.awaitReg.toNat = x.val ∧ s.causeOut = 0) ∧
    ∀ c, s.mode = .halted c → s.isRunning = false ∧ s.isAwaiting = false ∧ s.isHalted = true ∧ s.awaitReg = 0 ∧
      s.causeOut.toNat = (match c with
        | .unrecognizedInstruction => 1
        | .stackUnderflow => 2
        | .stackOverflow => 3
        | .memoryOutOfRange => 4
        | .keyIndexOutOfRange => 5)

/-! ## Results: each says that the instruction completes, what it leaves, and its frame -/

/-- R150: CLS. -/
def Obligations.ClsClearsEveryPixel : Prop :=
  ∀ s : State, ∃ t, exec .cls s = .next t ∧ (∀ row col, t.pixel row col = false) ∧ t.pc = s.pc + 2 ∧ Frame .cls s t

/-- R102: RET, and its underflow. -/
def Obligations.RetPopsIntoPc : Prop :=
  ∀ s : State,
    (∀ j : Fin 16, j.val + 1 = s.sp.val →
      ∃ t, exec .ret s = .next t ∧ t.pc = s.stackEntry j ∧ t.sp.val = j.val ∧ Frame .ret s t) ∧
    (s.sp.val = 0 → exec .ret s = .next (s.setMode (.halted .stackUnderflow)))

/-- R103, R109: JP nnn and JP V0, nnn. -/
def Obligations.JumpsReplacePc : Prop :=
  ∀ (nnn : BitVec 12) (s : State),
    (∃ t, exec (.jp nnn) s = .next t ∧ t.pc.toNat = nnn.toNat ∧ Frame (.jp nnn) s t) ∧
    ∃ t, exec (.jpV0 nnn) s = .next t ∧ t.pc.toNat = nnn.toNat + (s.getV 0).toNat ∧ Frame (.jpV0 nnn) s t

/-- R104, R203: CALL pushes pc + 2 and jumps; the 17th nested CALL is fatal (the depth and the overflow are D7). -/
def Obligations.CallPushesReturnAddress : Prop :=
  ∀ (nnn : BitVec 12) (s : State),
    (∀ j : Fin 16, j.val = s.sp.val →
      ∃ t, exec (.call nnn) s = .next t ∧ t.stackEntry j = s.pc + 2 ∧ t.sp.val = j.val + 1 ∧ t.pc.toNat = nnn.toNat ∧
        Frame (.call nnn) s t) ∧
    (s.sp.val = 16 → exec (.call nnn) s = .next (s.setMode (.halted .stackOverflow)))

/-- The source's property of R102: "CALL addr followed immediately by RET restores the program counter to exactly
call_site + 2", and the stack pointer, and every valid entry. -/
def Obligations.CallThenRetReturns : Prop :=
  ∀ (nnn : BitVec 12) (s t : State), s.sp.val < 16 → exec (.call nnn) s = .next t →
    ∃ u, exec .ret t = .next u ∧ u.pc = s.pc + 2 ∧ (s.setPc u.pc).sameButDeadEntries u

/-- R105 to R108: the four skips on registers (the meaning of SE and SNE is G5). -/
def Obligations.RegisterSkips : Prop :=
  ∀ (x y : Reg) (kk : Byte) (s : State),
    (∃ t, exec (.seByte x kk) s = .next t ∧ t.pc = s.pc + (if s.getV x = kk then 4 else 2) ∧ Frame (.seByte x kk) s t) ∧
    (∃ t, exec (.sneByte x kk) s = .next t ∧ t.pc = s.pc + (if s.getV x = kk then 2 else 4) ∧
      Frame (.sneByte x kk) s t) ∧
    (∃ t, exec (.seReg x y) s = .next t ∧ t.pc = s.pc + (if s.getV x = s.getV y then 4 else 2) ∧
      Frame (.seReg x y) s t) ∧
    ∃ t, exec (.sneReg x y) s = .next t ∧ t.pc = s.pc + (if s.getV x = s.getV y then 2 else 4) ∧ Frame (.sneReg x y) s t

/-- R101: SYS always raises UnrecognizedInstruction and changes only the mode (D5). -/
def Obligations.SysIsFatal : Prop :=
  ∀ (nnn : BitVec 12) (s : State), exec (.sys nnn) s = .next (s.setMode (.halted .unrecognizedInstruction))

/-- R120, R122, R131: the plain loads of a byte, of I and of a register (G5; LD Vx, Vy is D4). -/
def Obligations.PlainLoads : Prop :=
  ∀ (x y : Reg) (kk : Byte) (nnn : BitVec 12) (s : State),
    (∃ t, exec (.ldByte x kk) s = .next t ∧ t.getV x = kk ∧ t.pc = s.pc + 2 ∧ Frame (.ldByte x kk) s t) ∧
    (∃ t, exec (.ldReg x y) s = .next t ∧ t.getV x = s.getV y ∧ t.pc = s.pc + 2 ∧ Frame (.ldReg x y) s t) ∧
    ∃ t, exec (.ldI nnn) s = .next t ∧ t.i.toNat = nnn.toNat ∧ t.pc = s.pc + 2 ∧ Frame (.ldI nnn) s t

/-- R121: ADD Vx, kk wraps and, for x other than 15, leaves the flag register alone (90_conflicts.md C6). -/
def Obligations.AddByteWrapsWithoutFlag : Prop :=
  ∀ (x : Reg) (kk : Byte) (s : State),
    ∃ t, exec (.addByte x kk) s = .next t ∧ (t.getV x).toNat = ((s.getV x).toNat + kk.toNat) % 256 ∧
      (x ≠ 15 → t.getV 15 = s.getV 15) ∧ t.pc = s.pc + 2 ∧ Frame (.addByte x kk) s t

/-- R123: RND writes the drawn byte AND kk, the drawn byte being the free value of this draw (D19, log 3), and the next
draw is another one. "What can be proved of the result is exactly V[x] AND (NOT kk) = 0." -/
def Obligations.RndWritesMaskedDraw : Prop :=
  ∀ (x : Reg) (kk : Byte) (s : State),
    ∃ t, exec (.rnd x kk) s = .next t ∧ t.getV x = Config.rndByte s.draws &&& kk ∧ t.getV x &&& ~~~kk = 0 ∧
      t.draws = s.draws + 1 ∧ t.pc = s.pc + 2 ∧ Frame (.rnd x kk) s t

/-- R132 to R134: the three logic operations bit by bit, with no flag (D13, G5). -/
def Obligations.LogicOperations : Prop :=
  ∀ (x y : Reg) (s : State),
    (∃ t, exec (.or x y) s = .next t ∧
      (∀ b < 8, (t.getV x).getLsbD b = ((s.getV x).getLsbD b || (s.getV y).getLsbD b)) ∧ t.pc = s.pc + 2 ∧
      Frame (.or x y) s t) ∧
    (∃ t, exec (.and x y) s = .next t ∧
      (∀ b < 8, (t.getV x).getLsbD b = ((s.getV x).getLsbD b && (s.getV y).getLsbD b)) ∧ t.pc = s.pc + 2 ∧
      Frame (.and x y) s t) ∧
    ∃ t, exec (.xor x y) s = .next t ∧
      (∀ b < 8, (t.getV x).getLsbD b = ((s.getV x).getLsbD b ^^ (s.getV y).getLsbD b)) ∧ t.pc = s.pc + 2 ∧
      Frame (.xor x y) s t

/-- R135: ADD Vx, Vy. For x = 15 the sum remains and the carry is lost (R130 (d), D11). -/
def Obligations.AddRegWritesSumAndCarry : Prop :=
  ∀ (x y : Reg) (s : State),
    ∃ t, exec (.addReg x y) s = .next t ∧ (t.getV x).toNat = ((s.getV x).toNat + (s.getV y).toNat) % 256 ∧
      (x ≠ 15 → (t.getV 15).toNat = if 255 < (s.getV x).toNat + (s.getV y).toNat then 1 else 0) ∧
      t.pc = s.pc + 2 ∧ Frame (.addReg x y) s t

/-- R136, R138: SUB and SUBN. For x = 15 the difference remains and the flag is lost (R130 (d), D11). -/
def Obligations.SubtractionsWriteDifferenceAndNotBorrow : Prop :=
  ∀ (x y : Reg) (s : State),
    (∃ t, exec (.sub x y) s = .next t ∧ ((t.getV x).toNat : Int) = ((s.getV x).toNat - (s.getV y).toNat : Int) % 256 ∧
      (x ≠ 15 → (t.getV 15).toNat = if (s.getV y).toNat ≤ (s.getV x).toNat then 1 else 0) ∧
      t.pc = s.pc + 2 ∧ Frame (.sub x y) s t) ∧
    ∃ t, exec (.subn x y) s = .next t ∧ ((t.getV x).toNat : Int) = ((s.getV y).toNat - (s.getV x).toNat : Int) % 256 ∧
      (x ≠ 15 → (t.getV 15).toNat = if (s.getV x).toNat ≤ (s.getV y).toNat then 1 else 0) ∧
      t.pc = s.pc + 2 ∧ Frame (.subn x y) s t

/-- R137, R139: SHR and SHL, whatever y is (D12). For x = 15 the result remains (R86, D11). -/
def Obligations.ShiftsWriteResultAndBitShiftedOut : Prop :=
  ∀ (x y : Reg) (s : State),
    (∃ t, exec (.shr x y) s = .next t ∧ (t.getV x).toNat = (s.getV x).toNat / 2 ∧
      (x ≠ 15 → (t.getV 15).toNat = (s.getV x).toNat % 2) ∧ t.pc = s.pc + 2 ∧ Frame (.shr x y) s t) ∧
    ∃ t, exec (.shl x y) s = .next t ∧ (t.getV x).toNat = 2 * (s.getV x).toNat % 256 ∧
      (x ≠ 15 → (t.getV 15).toNat = (s.getV x).toNat / 128) ∧ t.pc = s.pc + 2 ∧ Frame (.shl x y) s t

/-- R151: DRW toggles exactly the pixels under a 1-bit of the sprite, each coordinate wrapping by itself, and V[15] is 1
exactly when one of them was ON, also when n is 0 (bit order D20, n = 0 D30); an address above 4095 is fatal with
nothing drawn (D15). -/
def Obligations.DrwXorsSpriteAndReportsCollision : Prop :=
  ∀ (x y : Reg) (n : BitVec 4) (s : State),
    ((n.toNat = 0 ∨ s.i.toNat + n.toNat - 1 ≤ 4095) →
      ∃ t, exec (.drw x y n) s = .next t ∧
        (∀ row col, s.spriteOn x y n row col → t.pixel row col = !s.pixel row col) ∧
        (∀ row col, ¬ s.spriteOn x y n row col → t.pixel row col = s.pixel row col) ∧
        ((t.getV 15).toNat = 0 ∨ (t.getV 15).toNat = 1) ∧
        ((t.getV 15).toNat = 1 ↔ ∃ row col, s.spriteOn x y n row col ∧ s.pixel row col = true) ∧
        t.pc = s.pc + 2 ∧ Frame (.drw x y n) s t) ∧
    (¬ (n.toNat = 0 ∨ s.i.toNat + n.toNat - 1 ≤ 4095) →
      exec (.drw x y n) s = .next (s.setMode (.halted .memoryOutOfRange)))

/-- R152 (a), (b): the same sprite drawn twice at the same place restores the framebuffer, and the second draw reports a
collision exactly when a 1-bit lay on a pixel that was OFF; a sprite without 1-bits changes no pixel and gives 0. -/
def Obligations.DrawingTwiceRestores : Prop :=
  ∀ (x y : Reg) (n : BitVec 4) (s t : State), Executes (.drw x y n) s → exec (.drw x y n) s = .next t →
    (t.getV x = s.getV x → t.getV y = s.getV y →
      ∃ u, exec (.drw x y n) t = .next u ∧ (∀ row col, u.pixel row col = s.pixel row col) ∧
        ((u.getV 15).toNat = 1 ↔ ∃ row col, s.spriteOn x y n row col ∧ s.pixel row col = false)) ∧
    ((∀ r < n.toNat, s.mem.read (s.i.toNat + r) = 0) → t.fb = s.fb ∧ t.getV 15 = 0)

/-- R160, R161, R163: SKP and SKNP; a key number above 15 is fatal (G5, D17). -/
def Obligations.KeySkips : Prop :=
  ∀ (x : Reg) (s : State),
    (∀ k : Reg, k.val = (s.getV x).toNat →
      (∃ t, exec (.skp x) s = .next t ∧ t.pc = s.pc + (if s.key k = true then 4 else 2) ∧ Frame (.skp x) s t) ∧
      ∃ t, exec (.sknp x) s = .next t ∧ t.pc = s.pc + (if s.key k = true then 2 else 4) ∧ Frame (.sknp x) s t) ∧
    (15 < (s.getV x).toNat →
      exec (.skp x) s = .next (s.setMode (.halted .keyIndexOutOfRange)) ∧
      exec (.sknp x) s = .next (s.setMode (.halted .keyIndexOutOfRange)))

/-- R162: LD Vx, K suspends, advances pc and writes no register (D18). -/
def Obligations.LoadKeySuspends : Prop :=
  ∀ (x : Reg) (s : State),
    ∃ t, exec (.ldVxK x) s = .next t ∧ t.mode = .awaitingKey x ∧ t.pc = s.pc + 2 ∧ Frame (.ldVxK x) s t

/-- R162, R216: over whole steps, a wait outlasts any Steps, Ticks and KeyPolls without a new press, and then delivers the
key and resumes at the instruction after it (D18, D29). -/
def Obligations.KeyWaitEndsAtFirstNewPress : Prop :=
  ∀ (s : State) (x j : Reg) (latch k : BitVec 16) (quiet rest : List Input), s.mode = .awaitingKey x →
    quietLatch s.keys quiet = some latch → s.inputs = quiet ++ .keyPoll k :: rest →
    latch.getLsb j = false → k.getLsb j = true →
    (∀ j' : Reg, j'.val < j.val → ¬ (latch.getLsb j' = false ∧ k.getLsb j' = true)) →
    ∃ u t, Sys2Proof.core.run quiet.length s = .next u ∧ u.mode = .awaitingKey x ∧ (∀ r, u.getV r = s.getV r) ∧
      Sys2Proof.core.run (quiet.length + 1) s = .next t ∧ t.mode = .running ∧ t.pc = s.pc ∧
      (t.getV x).toNat = j.val ∧ (∀ r, r ≠ x → t.getV r = s.getV r) ∧ t.keys = k ∧ t.inputs = rest

/-- R170, R171, R172: the three timer instructions (the timer design is D8). -/
def Obligations.TimerLoads : Prop :=
  ∀ (x : Reg) (s : State),
    (∃ t, exec (.ldVxDt x) s = .next t ∧ t.getV x = s.dt ∧ t.pc = s.pc + 2 ∧ Frame (.ldVxDt x) s t) ∧
    (∃ t, exec (.ldDtVx x) s = .next t ∧ t.dt = s.getV x ∧ t.pc = s.pc + 2 ∧ Frame (.ldDtVx x) s t) ∧
    ∃ t, exec (.ldStVx x) s = .next t ∧ t.st = s.getV x ∧ t.pc = s.pc + 2 ∧ Frame (.ldStVx x) s t

/-- R173: ADD I, Vx wraps at 16 bits and writes no flag (D13, D14). -/
def Obligations.AddIndexWraps : Prop :=
  ∀ (x : Reg) (s : State),
    ∃ t, exec (.addI x) s = .next t ∧ t.i.toNat = (s.i.toNat + (s.getV x).toNat) % 65536 ∧
      t.getV 15 = s.getV 15 ∧ t.pc = s.pc + 2 ∧ Frame (.addI x) s t

/-- R174: LD F, Vx computes V[x] * 5 exactly, without masking V[x]. -/
def Obligations.LoadFontAddress : Prop :=
  ∀ (x : Reg) (s : State),
    ∃ t, exec (.ldF x) s = .next t ∧ t.i.toNat = (s.getV x).toNat * 5 ∧ t.pc = s.pc + 2 ∧ Frame (.ldF x) s t

/-- R175: LD B, Vx stores the three decimal digits, or is fatal with nothing stored (D15). Premise: memory is canonical, which
every step keeps (`EveryStepKeepsMemoryCanonical`). -/
def Obligations.StoreDecimalDigits : Prop :=
  ∀ (x : Reg) (s : State), s.memoryCanonical →
    (s.i.toNat + 2 ≤ 4095 →
      ∃ t, exec (.ldB x) s = .next t ∧ (t.mem.read s.i.toNat).toNat = (s.getV x).toNat / 100 ∧
        (t.mem.read (s.i.toNat + 1)).toNat = (s.getV x).toNat / 10 % 10 ∧
        (t.mem.read (s.i.toNat + 2)).toNat = (s.getV x).toNat % 10 ∧ t.pc = s.pc + 2 ∧ Frame (.ldB x) s t) ∧
    (4095 < s.i.toNat + 2 → exec (.ldB x) s = .next (s.setMode (.halted .memoryOutOfRange)))

/-- R176, R177: the register block, V[0] to V[x] inclusive, I unchanged, or fatal with no effect (D15, D16). Premise as
above. -/
def Obligations.RegisterBlockTransfers : Prop :=
  ∀ (x : Reg) (s : State), s.memoryCanonical →
    (s.i.toNat + x.val ≤ 4095 →
      (∃ t, exec (.storeRegs x) s = .next t ∧ (∀ k : Reg, k ≤ x → t.mem.read (s.i.toNat + k.val) = s.getV k) ∧
        t.pc = s.pc + 2 ∧ Frame (.storeRegs x) s t) ∧
      ∃ t, exec (.loadRegs x) s = .next t ∧ (∀ k : Reg, k ≤ x → t.getV k = s.mem.read (s.i.toNat + k.val)) ∧
        t.pc = s.pc + 2 ∧ Frame (.loadRegs x) s t) ∧
    (4095 < s.i.toNat + x.val →
      exec (.storeRegs x) s = .next (s.setMode (.halted .memoryOutOfRange)) ∧
      exec (.loadRegs x) s = .next (s.setMode (.halted .memoryOutOfRange)))

/-- R176 then R177: registers stored and loaded again from the same I come back, whatever happened to them between. -/
def Obligations.StoredBlockLoadsBack : Prop :=
  ∀ (x : Reg) (s t : State) (vs : Vector Byte 16), s.memoryCanonical → Executes (.storeRegs x) s →
    exec (.storeRegs x) s = .next t →
    ∃ u, exec (.loadRegs x) (t.setVs vs) = .next u ∧ (∀ k : Reg, k ≤ x → u.getV k = s.getV k) ∧
      ∀ k : Reg, x < k → u.getV k = vs.get k

/-- R53, R45: a stored word is what the next fetch at its address gives, V[0] its high byte (D31). -/
def Obligations.StoredWordIsFetched : Prop :=
  ∀ (x : Reg) (s t : State), s.memoryCanonical → 1 ≤ x.val → s.i.toNat + x.val ≤ 4095 →
    exec (.storeRegs x) s = .next t → (t.setPc s.i).fetch = some (s.getV 0 ++ s.getV 1)
end

