-- ==== Sys2Proof/Laws/Encoding.lean ====
section
/-! SUPPORT. The encoding as arithmetic: what each format's word is, what each field of a word is, and that each field of
each format's word is the operand that was put there (spec/30_encoding.md R61, R62, R75). -/

namespace Sys2Proof

/-! ## Words of the formats -/

theorem append_toNat {n m : Nat} (a : BitVec n) (b : BitVec m) : (a ++ b).toNat = a.toNat * 2 ^ m + b.toNat := by
  rw [BitVec.toNat_append, ← Nat.shiftLeft_add_eq_or_of_lt b.isLt, Nat.shiftLeft_eq]

@[simp] theorem nibble_toNat (r : Reg) : (nibble r).toNat = r.val := rfl

theorem formatA_toNat (op : BitVec 4) (nnn : BitVec 12) : (formatA op nnn).toNat = op.toNat * 4096 + nnn.toNat :=
  append_toNat op nnn

theorem formatXK_toNat (op : BitVec 4) (x : Reg) (kk : Byte) :
    (formatXK op x kk).toNat = op.toNat * 4096 + x.val * 256 + kk.toNat := by
  have h : (formatXK op x kk).toNat = (op ++ nibble x).toNat * 256 + kk.toNat := append_toNat (op ++ nibble x) kk
  rw [h, append_toNat op (nibble x), nibble_toNat]
  omega

theorem formatXYN_toNat (op : BitVec 4) (x y : Reg) (n : BitVec 4) :
    (formatXYN op x y n).toNat = op.toNat * 4096 + x.val * 256 + y.val * 16 + n.toNat := by
  have h : (formatXYN op x y n).toNat = (op ++ nibble x ++ nibble y).toNat * 16 + n.toNat :=
    append_toNat (op ++ nibble x ++ nibble y) n
  have h2 : (op ++ nibble x ++ nibble y).toNat = (op ++ nibble x).toNat * 16 + (nibble y).toNat :=
    append_toNat (op ++ nibble x) (nibble y)
  rw [h, h2, append_toNat op (nibble x), nibble_toNat, nibble_toNat]
  omega

theorem joinBytes_toNat (hi lo : Byte) : (joinBytes hi lo).toNat = hi.toNat * 256 + lo.toNat := append_toNat hi lo

/-! ## Fields of a word -/

theorem slice_toNat (w : Word) (lo len : Nat) : (w.extractLsb' lo len).toNat = w.toNat / 2 ^ lo % 2 ^ len := by
  rw [BitVec.extractLsb'_toNat, Nat.shiftRight_eq_div_pow]

theorem fieldOp_toNat (w : Word) : (fieldOp w).toNat = w.toNat / 4096 := by
  have := w.isLt
  rw [fieldOp, slice_toNat]
  omega

theorem fieldX_val (w : Word) : (fieldX w).val = w.toNat / 256 % 16 := slice_toNat w 8 4

theorem fieldY_val (w : Word) : (fieldY w).val = w.toNat / 16 % 16 := slice_toNat w 4 4

theorem fieldN_toNat (w : Word) : (fieldN w).toNat = w.toNat % 16 := by
  rw [fieldN, slice_toNat]
  omega

theorem fieldKk_toNat (w : Word) : (fieldKk w).toNat = w.toNat % 256 := by
  rw [fieldKk, slice_toNat]
  omega

theorem fieldNnn_toNat (w : Word) : (fieldNnn w).toNat = w.toNat % 4096 := by
  rw [fieldNnn, slice_toNat]
  omega

/-- The high and the low byte joined again are the word (R45). -/
theorem joinBytes_high_low (w : Word) : joinBytes (highByte w) (lowByte w) = w := by
  have := w.isLt
  apply BitVec.eq_of_toNat_eq
  rw [joinBytes_toNat, highByte, lowByte, slice_toNat, slice_toNat]
  omega

/-! ## Each operand back from its word -/

@[simp] theorem fieldOp_formatA (op : BitVec 4) (nnn : BitVec 12) : fieldOp (formatA op nnn) = op := by
  have := nnn.isLt
  apply BitVec.eq_of_toNat_eq
  rw [fieldOp_toNat, formatA_toNat]
  omega

@[simp] theorem fieldNnn_formatA (op : BitVec 4) (nnn : BitVec 12) : fieldNnn (formatA op nnn) = nnn := by
  have := nnn.isLt
  apply BitVec.eq_of_toNat_eq
  rw [fieldNnn_toNat, formatA_toNat]
  omega

@[simp] theorem fieldOp_formatXK (op : BitVec 4) (x : Reg) (kk : Byte) : fieldOp (formatXK op x kk) = op := by
  have := kk.isLt
  have := x.isLt
  apply BitVec.eq_of_toNat_eq
  rw [fieldOp_toNat, formatXK_toNat]
  omega

@[simp] theorem fieldX_formatXK (op : BitVec 4) (x : Reg) (kk : Byte) : fieldX (formatXK op x kk) = x := by
  have := kk.isLt
  have := x.isLt
  apply Fin.ext
  rw [fieldX_val, formatXK_toNat]
  omega

@[simp] theorem fieldKk_formatXK (op : BitVec 4) (x : Reg) (kk : Byte) : fieldKk (formatXK op x kk) = kk := by
  have := kk.isLt
  apply BitVec.eq_of_toNat_eq
  rw [fieldKk_toNat, formatXK_toNat]
  omega

@[simp] theorem fieldOp_formatXYN (op : BitVec 4) (x y : Reg) (n : BitVec 4) : fieldOp (formatXYN op x y n) = op := by
  have := n.isLt
  have := x.isLt
  have := y.isLt
  apply BitVec.eq_of_toNat_eq
  rw [fieldOp_toNat, formatXYN_toNat]
  omega

@[simp] theorem fieldX_formatXYN (op : BitVec 4) (x y : Reg) (n : BitVec 4) : fieldX (formatXYN op x y n) = x := by
  have := n.isLt
  have := x.isLt
  have := y.isLt
  apply Fin.ext
  rw [fieldX_val, formatXYN_toNat]
  omega

@[simp] theorem fieldY_formatXYN (op : BitVec 4) (x y : Reg) (n : BitVec 4) : fieldY (formatXYN op x y n) = y := by
  have := n.isLt
  have := y.isLt
  apply Fin.ext
  rw [fieldY_val, formatXYN_toNat]
  omega

@[simp] theorem fieldN_formatXYN (op : BitVec 4) (x y : Reg) (n : BitVec 4) : fieldN (formatXYN op x y n) = n := by
  have := n.isLt
  apply BitVec.eq_of_toNat_eq
  rw [fieldN_toNat, formatXYN_toNat]
  omega

end Sys2Proof
end

