-- ==== Sys2Proof/Laws/Memory.lean ====
section
/-! SUPPORT. The laws of memory and of the framebuffer: read after write, the canonical form, byte blocks, pixels, and
what a sprite draw does to every pixel. -/

namespace Sys2Proof.Machine

/-! ## One byte -/

/-- After an entry is placed, the list answers it at its address and as before elsewhere. -/
theorem Memory.lookup_place (m : Memory) (a : Nat) (b : Byte) (k : Nat)
    (hm : m.Pairwise (fun c d => c.1 < d.1)) :
    Memory.lookup k (Memory.place a b m) = if k = a then some b else Memory.lookup k m := by
  induction m with
  | nil =>
    by_cases h : k = a
    · simp [Memory.place, Memory.lookup, h]
    · simp [Memory.place, Memory.lookup, h, Ne.symm h]
  | cons c rest ih =>
    obtain ⟨j, d⟩ := c
    rw [List.pairwise_cons] at hm
    unfold Memory.place
    split
    · by_cases h : k = a
      · simp [Memory.lookup, h]
      · simp [Memory.lookup, h, Ne.symm h]
    · split
      · rename_i h1 h2
        by_cases h : k = a
        · simp [Memory.lookup, h]
        · simp [Memory.lookup, h, Ne.symm h, h2]
      · rename_i h1 h2
        by_cases h : j = k
        · have : k ≠ a := fun e => h2 (h.trans e)
          simp [Memory.lookup, h, this]
        · simp [Memory.lookup, h, ih hm.2]

/-- In a canonical list an address below every entry is not held. -/
theorem Memory.lookup_none (m : Memory) (a : Nat) (h : ∀ c ∈ m, c.1 ≠ a) : Memory.lookup a m = none := by
  induction m with
  | nil => rfl
  | cons c rest ih =>
    obtain ⟨j, d⟩ := c
    have h1 : j ≠ a := h (j, d) (by simp)
    simp only [Memory.lookup, if_neg h1]
    exact ih fun c hc => h c (List.mem_cons_of_mem _ hc)

/-- After an entry is dropped, its address is not held and every other is as before. -/
theorem Memory.lookup_drop (m : Memory) (a k : Nat) (hm : m.Pairwise (fun c d => c.1 < d.1)) :
    Memory.lookup k (Memory.drop a m) = if k = a then none else Memory.lookup k m := by
  induction m with
  | nil => simp [Memory.drop, Memory.lookup]
  | cons c rest ih =>
    obtain ⟨j, d⟩ := c
    rw [List.pairwise_cons] at hm
    unfold Memory.drop
    split
    · rename_i h1
      by_cases h : k = a
      · rw [if_pos h]
        refine Memory.lookup_none rest k fun c hc => ?_
        have : j < c.1 := hm.1 c hc
        omega
      · have : j ≠ k := fun e => h (e.symm.trans h1)
        simp [Memory.lookup, h, this]
    · rename_i h1
      by_cases h : j = k
      · have : k ≠ a := fun e => h1 (h.trans e)
        simp [Memory.lookup, h, this]
      · simp [Memory.lookup, h, ih hm.2]

/-- Read after write: the byte written at its address when that exists, every other byte as before. -/
theorem Memory.read_write (m : Memory) (a : Nat) (b : Byte) (k : Nat) (hm : m.wf) :
    (m.write a b).read k = if k = a ∧ a ≤ Config.addrMax then b else m.read k := by
  unfold Memory.write
  by_cases ha : a ≤ Config.addrMax
  · rw [if_pos ha]
    by_cases hb : b = resetByte a
    · rw [if_pos hb, Memory.read, Memory.lookup_drop m a k hm.1]
      by_cases h : k = a <;> simp [h, ha, Memory.read, hb]
    · rw [if_neg hb, Memory.read, Memory.lookup_place m a b k hm.1]
      by_cases h : k = a <;> simp [h, ha, Memory.read]
  · simp [ha]

/-- Placing an entry keeps every other entry and adds only the one. -/
theorem Memory.mem_place (m : Memory) (a : Nat) (b : Byte) (c : Host.Cell) (h : c ∈ Memory.place a b m) :
    c = (a, b) ∨ c ∈ m := by
  induction m with
  | nil => simpa [Memory.place] using h
  | cons d rest ih =>
    obtain ⟨j, e⟩ := d
    unfold Memory.place at h
    split at h
    · simpa using h
    · split at h
      · rcases List.mem_cons.1 h with h | h
        · exact .inl h
        · exact .inr (List.mem_cons_of_mem _ h)
      · rcases List.mem_cons.1 h with h | h
        · exact .inr (h ▸ List.mem_cons_self)
        · exact (ih h).imp id (List.mem_cons_of_mem _)

/-- Dropping an entry adds none. -/
theorem Memory.mem_drop (m : Memory) (a : Nat) (c : Host.Cell) (h : c ∈ Memory.drop a m) : c ∈ m := by
  induction m with
  | nil => exact h
  | cons d rest ih =>
    obtain ⟨j, e⟩ := d
    unfold Memory.drop at h
    split at h
    · exact List.mem_cons_of_mem _ h
    · rcases List.mem_cons.1 h with h | h
      · exact h ▸ List.mem_cons_self
      · exact List.mem_cons_of_mem _ (ih h)

/-- Placing keeps the addresses strictly rising. -/
theorem Memory.place_rising (m : Memory) (a : Nat) (b : Byte) (hm : m.Pairwise (fun c d => c.1 < d.1)) :
    (Memory.place a b m).Pairwise (fun c d => c.1 < d.1) := by
  induction m with
  | nil => simp [Memory.place]
  | cons d rest ih =>
    obtain ⟨j, e⟩ := d
    have hm' := List.pairwise_cons.1 hm
    unfold Memory.place
    split
    · rename_i h1
      refine List.pairwise_cons.2 ⟨fun c hc => ?_, hm⟩
      rcases List.mem_cons.1 hc with hc | hc
      · simpa [hc] using h1
      · exact Nat.lt_trans h1 (hm'.1 c hc)
    · split
      · rename_i h2
        exact List.pairwise_cons.2 ⟨fun c hc => h2 ▸ hm'.1 c hc, hm'.2⟩
      · rename_i h1 h2
        refine List.pairwise_cons.2 ⟨fun c hc => ?_, ih hm'.2⟩
        rcases Memory.mem_place rest a b c hc with hc | hc
        · subst hc
          show j < a
          omega
        · exact hm'.1 c hc

/-- Dropping keeps the addresses strictly rising. -/
theorem Memory.drop_rising (m : Memory) (a : Nat) (hm : m.Pairwise (fun c d => c.1 < d.1)) :
    (Memory.drop a m).Pairwise (fun c d => c.1 < d.1) := by
  induction m with
  | nil => exact hm
  | cons d rest ih =>
    obtain ⟨j, e⟩ := d
    have hm' := List.pairwise_cons.1 hm
    unfold Memory.drop
    split
    · exact hm'.2
    · exact List.pairwise_cons.2 ⟨fun c hc => hm'.1 c (Memory.mem_drop rest a c hc), ih hm'.2⟩

/-- A byte write keeps the canonical form. -/
theorem Memory.write_wf (m : Memory) (a : Nat) (b : Byte) (hm : m.wf) : (m.write a b).wf := by
  unfold Memory.write
  split
  · rename_i ha
    split
    · exact ⟨Memory.drop_rising m a hm.1, fun c hc => hm.2 c (Memory.mem_drop m a c hc)⟩
    · rename_i hb
      refine ⟨Memory.place_rising m a b hm.1, fun c hc => ?_⟩
      rcases Memory.mem_place m a b c hc with hc | hc
      · subst hc
        exact ⟨ha, hb⟩
      · exact hm.2 c hc
  · exact hm

/-- An address above 4095 does not exist: writing it changes nothing. -/
theorem Memory.write_above (m : Memory) (a : Nat) (b : Byte) (h : Config.addrMax < a) : m.write a b = m := by
  unfold Memory.write
  rw [if_neg (by omega)]

/-- The reset memory is canonical, and reads as the reset contents. -/
theorem Memory.empty_wf : Memory.wf [] := ⟨List.Pairwise.nil, by simp⟩

@[simp] theorem Memory.empty_read (a : Nat) : Memory.read [] a = resetByte a := rfl

/-- Canonical memories that read alike at every address are the same list. -/
theorem Memory.ext_of_read (m n : Memory) (hm : m.wf) (hn : n.wf) (h : ∀ a, m.read a = n.read a) : m = n := by
  induction m generalizing n with
  | nil =>
    cases n with
    | nil => rfl
    | cons d rest =>
      have h1 := h d.1
      simp only [Memory.read, Memory.lookup, if_true, Option.getD_none, Option.getD_some] at h1
      exact absurd h1.symm (hn.2 d (by simp)).2
  | cons c ms ih =>
    obtain ⟨j, b⟩ := c
    have hms := List.pairwise_cons.1 hm.1
    cases n with
    | nil =>
      have h1 := h j
      simp only [Memory.read, Memory.lookup, if_true, Option.getD_none, Option.getD_some] at h1
      exact absurd h1 (hm.2 (j, b) (by simp)).2
    | cons d ns =>
      obtain ⟨k, e⟩ := d
      have hns := List.pairwise_cons.1 hn.1
      have below : ∀ (l : Memory) (p : Nat), (∀ c ∈ l, p < c.1) → Memory.lookup p l = none :=
        fun l p hl => Memory.lookup_none l p fun c hc => by have := hl c hc; omega
      rcases Nat.lt_trichotomy j k with hjk | hjk | hjk
      · have h1 := h j
        have h2 : Memory.lookup j ((k, e) :: ns) = none := below _ j fun c hc => by
          rcases List.mem_cons.1 hc with hc | hc
          · subst hc
            exact hjk
          · exact Nat.lt_trans hjk (hns.1 c hc)
        simp only [Memory.read, h2, Option.getD_none] at h1
        simp only [Memory.lookup, if_true, Option.getD_some] at h1
        exact absurd h1 (hm.2 (j, b) (by simp)).2
      · subst hjk
        have h1 := h j
        simp only [Memory.read, Memory.lookup, if_true, Option.getD_some] at h1
        subst h1
        congr 1
        refine ih ns ⟨hms.2, fun c hc => hm.2 c (by simp [hc])⟩ ⟨hns.2, fun c hc => hn.2 c (by simp [hc])⟩ fun a => ?_
        by_cases ha : j = a
        · subst ha
          rw [Memory.read, Memory.read, below ms j fun c hc => hms.1 c hc, below ns j fun c hc => hns.1 c hc]
        · have := h a
          simpa only [Memory.read, Memory.lookup, if_neg ha] using this
      · have h1 := h k
        have h2 : Memory.lookup k ((j, b) :: ms) = none := below _ k fun c hc => by
          rcases List.mem_cons.1 hc with hc | hc
          · subst hc
            exact hjk
          · exact Nat.lt_trans hjk (hms.1 c hc)
        simp only [Memory.read, h2, Option.getD_none] at h1
        simp only [Memory.lookup, if_true, Option.getD_some] at h1
        exact absurd h1.symm (hn.2 (k, e) (by simp)).2

/-! ## Blocks of bytes -/

/-- A block write keeps the canonical form. -/
theorem Memory.writeBytes_wf (bs : List Byte) (m : Memory) (a : Nat) (hm : m.wf) : (m.writeBytes a bs).wf := by
  induction bs generalizing m a with
  | nil => exact hm
  | cons b bs ih => exact ih _ _ (Memory.write_wf m a b hm)

/-- Read after a block write that stays below 4096: the block's byte inside it, the old byte outside. -/
theorem Memory.read_writeBytes (bs : List Byte) (m : Memory) (a k : Nat) (hm : m.wf)
    (ha : a + bs.length ≤ Config.addrMax + 1) :
    (m.writeBytes a bs).read k = if h : a ≤ k ∧ k < a + bs.length then bs[k - a]'(by omega) else m.read k := by
  induction bs generalizing m a with
  | nil =>
    rw [dif_neg (by simp)]
    rfl
  | cons b bs ih =>
    simp only [List.length_cons] at ha ⊢
    rw [Memory.writeBytes, ih _ _ (Memory.write_wf m a b hm) (by omega), Memory.read_write m a b k hm]
    by_cases h1 : k = a
    · subst h1
      rw [dif_neg (by omega), if_pos ⟨rfl, by omega⟩, dif_pos (by omega)]
      simp
    · by_cases h2 : a + 1 ≤ k ∧ k < a + 1 + bs.length
      · rw [dif_pos h2, dif_pos (by omega)]
        have e : k - a = k - (a + 1) + 1 := by omega
        simp [e]
      · rw [dif_neg h2, dif_neg (by omega), if_neg (by simp [h1])]

@[simp] theorem Memory.readBytes_length (m : Memory) (a n : Nat) : (m.readBytes a n).length = n := by
  induction n generalizing a with
  | zero => rfl
  | succ n ih => simp [Memory.readBytes, ih]

/-- The k-th byte of a block read. -/
theorem Memory.readBytes_getElem (m : Memory) (a n k : Nat) (h : k < (m.readBytes a n).length) :
    (m.readBytes a n)[k] = m.read (a + k) := by
  induction n generalizing a k with
  | zero => simp [Memory.readBytes] at h
  | succ n ih =>
    cases k with
    | zero => simp [Memory.readBytes]
    | succ k =>
      simp only [Memory.readBytes, List.getElem_cons_succ]
      rw [ih]
      congr 1
      omega

/-! ## Pixels -/

@[simp] theorem wrapRow_val (n : Nat) : (wrapRow n).val = n % 32 := rfl

@[simp] theorem wrapCol_val (n : Nat) : (wrapCol n).val = n % 64 := rfl

/-- A pixel after one pixel is written. -/
@[simp] theorem Framebuffer.pixel_setPixel (fb : Framebuffer) (row row' : Fin 32) (col col' : Fin 64) (b : Bool) :
    (fb.setPixel row col b).pixel row' col' = if row' = row ∧ col' = col then b else fb.pixel row' col' := by
  simp only [Framebuffer.pixel, Framebuffer.setPixel, Vector.get_eq_getElem, Vector.getElem_set, Fin.ext_iff]
  by_cases hr : row.val = row'.val
  · by_cases hc : col.val = col'.val
    · simp [hr, hc]
    · simp [hr, hc, Ne.symm hc]
  · simp [hr, Ne.symm hr]

@[simp] theorem Framebuffer.pixel_clear (row : Fin 32) (col : Fin 64) : Framebuffer.clear.pixel row col = false := by
  simp [Framebuffer.pixel, Framebuffer.clear, Vector.get_eq_getElem]

/-- Framebuffers with the same pixels are equal. -/
theorem Framebuffer.ext_of_pixel (f g : Framebuffer) (h : ∀ row col, f.pixel row col = g.pixel row col) : f = g := by
  apply Vector.ext
  intro r hr
  apply Vector.ext
  intro c hc
  have := h ⟨r, hr⟩ ⟨c, hc⟩
  simpa only [Framebuffer.pixel, Vector.get_eq_getElem] using this

/-- One toggle: the pixel and the collision it notes. -/
theorem Framebuffer.pixel_flip (row row' : Fin 32) (col col' : Fin 64) (acc : Framebuffer × Bool) :
    (Framebuffer.flip row col acc).1.pixel row' col' =
      ((decide (row' = row ∧ col' = col)) ^^ acc.1.pixel row' col') := by
  by_cases h : row' = row ∧ col' = col
  · simp [Framebuffer.flip, h]
  · simp [Framebuffer.flip, h]

/-- Sprite columns of one byte, of the `k` columns still to draw, that fall on framebuffer column `col`. -/
abbrev Framebuffer.rowCovers (vx : Nat) (b : Byte) (k : Nat) (col : Fin 64) : Prop :=
  ∃ c < 8, 8 - k ≤ c ∧ col.val = (vx + c) % 64 ∧ b.getLsbD (7 - c) = true

/-- One sprite row toggles exactly the pixels of its row that a 1-bit covers. -/
theorem Framebuffer.pixel_drawRow (vx : Nat) (row row' : Fin 32) (b : Byte) (k : Nat) (hk : k ≤ 8) (col' : Fin 64)
    (acc : Framebuffer × Bool) :
    (Framebuffer.drawRow vx row b k acc).1.pixel row' col' =
      (decide (row' = row ∧ Framebuffer.rowCovers vx b k col') ^^ acc.1.pixel row' col') := by
  induction k generalizing acc with
  | zero =>
    have : ¬ Framebuffer.rowCovers vx b 0 col' := by
      rintro ⟨c, h1, h2, -⟩
      omega
    simp [Framebuffer.drawRow, this]
  | succ k ih =>
    rw [Framebuffer.drawRow, ih (by omega)]
    have hcov : Framebuffer.rowCovers vx b (k + 1) col' ↔
        (col'.val = (vx + (7 - k)) % 64 ∧ b.getLsbD k = true) ∨ Framebuffer.rowCovers vx b k col' := by
      constructor
      · rintro ⟨c, h1, h2, h3, h4⟩
        by_cases hc : c = 7 - k
        · subst hc
          have : 7 - (7 - k) = k := by omega
          exact .inl ⟨h3, by rwa [this] at h4⟩
        · exact .inr ⟨c, h1, by omega, h3, h4⟩
      · rintro (⟨h3, h4⟩ | ⟨c, h1, h2, h3, h4⟩)
        · have : 7 - (7 - k) = k := by omega
          exact ⟨7 - k, by omega, by omega, h3, by rwa [this]⟩
        · exact ⟨c, h1, by omega, h3, h4⟩
    have hdis : col'.val = (vx + (7 - k)) % 64 → ¬ Framebuffer.rowCovers vx b k col' := by
      rintro h ⟨c, h1, h2, h3, -⟩
      omega
    have hcol : (col' = wrapCol (vx + (7 - k))) ↔ col'.val = (vx + (7 - k)) % 64 := by
      simp [Fin.ext_iff]
    by_cases hb : b.getLsbD k = true
    · rw [if_pos hb, Framebuffer.pixel_flip]
      by_cases hr : row' = row
      · by_cases hc : col'.val = (vx + (7 - k)) % 64
        · have h1 := hdis hc
          simp [hcov, hr, hcol, hc, hb, h1]
        · simp [hcov, hr, hcol, hc]
      · simp [hr]
    · rw [if_neg hb]
      simp [hcov, hb]

/-- The sprite pixels, from sprite row `r` on, that fall on (row, col) with a 1-bit (R151). -/
abbrev Framebuffer.covers (vx vy r : Nat) (bs : List Byte) (row : Fin 32) (col : Fin 64) : Prop :=
  ∃ k, ∃ h : k < bs.length, row.val = (vy + (r + k)) % 32 ∧ ∃ c < 8, col.val = (vx + c) % 64 ∧ bs[k].getLsbD (7 - c) = true

/-- A sprite of at most 32 rows toggles exactly the pixels that a 1-bit covers: "no framebuffer pixel is targeted twice"
(R151). -/
theorem Framebuffer.pixel_drawSprite (vx vy : Nat) (bs : List Byte) (r : Nat) (hn : bs.length ≤ 32)
    (row : Fin 32) (col : Fin 64) (acc : Framebuffer × Bool) :
    (Framebuffer.drawSprite vx vy r bs acc).1.pixel row col =
      ((decide (Framebuffer.covers vx vy r bs row col)) ^^ acc.1.pixel row col) := by
  induction bs generalizing r acc with
  | nil =>
    have : ¬ Framebuffer.covers vx vy r [] row col := by
      rintro ⟨k, hk, -⟩
      exact absurd hk (Nat.not_lt_zero k)
    simp [Framebuffer.drawSprite, this]
  | cons b bs ih =>
    simp only [List.length_cons] at hn
    rw [Framebuffer.drawSprite, ih _ (by omega), Framebuffer.pixel_drawRow _ _ _ _ _ (by omega)]
    have hrow : (row = wrapRow (vy + r)) ↔ row.val = (vy + r) % 32 := by simp [Fin.ext_iff]
    have hcov : Framebuffer.covers vx vy r (b :: bs) row col ↔
        (row.val = (vy + r) % 32 ∧ Framebuffer.rowCovers vx b 8 col) ∨ Framebuffer.covers vx vy (r + 1) bs row col := by
      constructor
      · rintro ⟨k, hk, h1, c, h2, h3, h4⟩
        cases k with
        | zero => exact .inl ⟨by simpa using h1, c, h2, by omega, h3, by simpa using h4⟩
        | succ k =>
          refine .inr ⟨k, by simpa using hk, ?_, c, h2, h3, by simpa using h4⟩
          rw [h1]
          congr 2
          omega
      · rintro (⟨h1, c, h2, -, h3, h4⟩ | ⟨k, hk, h1, c, h2, h3, h4⟩)
        · exact ⟨0, by simp, by simpa using h1, c, h2, h3, by simpa using h4⟩
        · refine ⟨k + 1, by simpa using hk, ?_, c, h2, h3, by simpa using h4⟩
          rw [h1]
          congr 2
          omega
    have hdis : row.val = (vy + r) % 32 → ¬ Framebuffer.covers vx vy (r + 1) bs row col := by
      rintro h ⟨k, hk, h1, -⟩
      omega
    by_cases h1 : row.val = (vy + r) % 32
    · have h2 := hdis h1
      simp [hcov, hrow, h1, h2]
    · simp [hcov, hrow, h1]

/-- One toggle notes a collision exactly when the pixel was ON. -/
theorem Framebuffer.flip_snd (row : Fin 32) (col : Fin 64) (acc : Framebuffer × Bool) :
    (Framebuffer.flip row col acc).2 = (acc.2 || acc.1.pixel row col) := rfl

/-- One sprite row notes a collision exactly when a pixel it covers was ON. -/
theorem Framebuffer.drawRow_snd (vx : Nat) (row : Fin 32) (b : Byte) (k : Nat) (hk : k ≤ 8) (acc : Framebuffer × Bool) :
    (Framebuffer.drawRow vx row b k acc).2 = true ↔
      acc.2 = true ∨ ∃ c < 8, 8 - k ≤ c ∧ b.getLsbD (7 - c) = true ∧ acc.1.pixel row (wrapCol (vx + c)) = true := by
  induction k generalizing acc with
  | zero =>
    simp only [Framebuffer.drawRow]
    constructor
    · exact .inl
    · rintro (h | ⟨c, h1, h2, -⟩)
      · exact h
      · omega
  | succ k ih =>
    rw [Framebuffer.drawRow, ih (by omega)]
    have hsplit : (∃ c < 8, 8 - (k + 1) ≤ c ∧ b.getLsbD (7 - c) = true ∧ acc.1.pixel row (wrapCol (vx + c)) = true) ↔
        (b.getLsbD k = true ∧ acc.1.pixel row (wrapCol (vx + (7 - k))) = true) ∨
        ∃ c < 8, 8 - k ≤ c ∧ b.getLsbD (7 - c) = true ∧ acc.1.pixel row (wrapCol (vx + c)) = true := by
      constructor
      · rintro ⟨c, h1, h2, h3, h4⟩
        by_cases hc : c = 7 - k
        · subst hc
          have : 7 - (7 - k) = k := by omega
          exact .inl ⟨by rwa [this] at h3, h4⟩
        · exact .inr ⟨c, h1, by omega, h3, h4⟩
      · rintro (⟨h3, h4⟩ | ⟨c, h1, h2, h3, h4⟩)
        · have : 7 - (7 - k) = k := by omega
          exact ⟨7 - k, by omega, by omega, by rwa [this], h4⟩
        · exact ⟨c, h1, by omega, h3, h4⟩
    rw [hsplit]
    by_cases hb : b.getLsbD k = true
    · rw [if_pos hb, Framebuffer.flip_snd]
      have hpix : ∀ c < 8, 8 - k ≤ c →
          (Framebuffer.flip row (wrapCol (vx + (7 - k))) acc).1.pixel row (wrapCol (vx + c)) =
            acc.1.pixel row (wrapCol (vx + c)) := by
        intro c h1 h2
        have hne : (wrapCol (vx + c)) ≠ wrapCol (vx + (7 - k)) := by
          simp only [ne_eq, Fin.ext_iff, wrapCol_val]
          omega
        simp [Framebuffer.pixel_flip, hne]
      constructor
      · rintro (h | ⟨c, h1, h2, h3, h4⟩)
        · rcases Bool.or_eq_true_iff.1 h with h | h
          · exact .inl h
          · exact .inr (.inl ⟨hb, h⟩)
        · exact .inr (.inr ⟨c, h1, h2, h3, by rwa [hpix c h1 h2] at h4⟩)
      · rintro (h | ⟨-, h⟩ | ⟨c, h1, h2, h3, h4⟩)
        · exact .inl (by simp [h])
        · exact .inl (by simp [h])
        · exact .inr ⟨c, h1, h2, h3, by rwa [hpix c h1 h2]⟩
    · rw [if_neg hb]
      simp [hb]

/-- A sprite of at most 32 rows notes a collision exactly when a pixel it covers was ON before it: "collision compares
against the framebuffer from before the instruction" (R151). -/
theorem Framebuffer.drawSprite_snd (vx vy : Nat) (bs : List Byte) (r : Nat) (hn : bs.length ≤ 32)
    (acc : Framebuffer × Bool) :
    (Framebuffer.drawSprite vx vy r bs acc).2 = true ↔
      acc.2 = true ∨ ∃ row col, Framebuffer.covers vx vy r bs row col ∧ acc.1.pixel row col = true := by
  induction bs generalizing r acc with
  | nil => simp [Framebuffer.drawSprite]
  | cons b bs ih =>
    simp only [List.length_cons] at hn
    rw [Framebuffer.drawSprite, ih _ (by omega), Framebuffer.drawRow_snd _ _ _ _ (by omega)]
    have hkeep : ∀ row col, Framebuffer.covers vx vy (r + 1) bs row col →
        (Framebuffer.drawRow vx (wrapRow (vy + r)) b 8 acc).1.pixel row col = acc.1.pixel row col := by
      rintro row col ⟨k, hk, h1, -⟩
      have hne : row ≠ wrapRow (vy + r) := by
        simp only [ne_eq, Fin.ext_iff, wrapRow_val]
        omega
      simp [Framebuffer.pixel_drawRow, hne]
    constructor
    · rintro ((h | ⟨c, h1, -, h3, h4⟩) | ⟨row, col, ⟨k, hk, h1, c, h2, h3, h4⟩, h5⟩)
      · exact .inl h
      · exact .inr ⟨_, _, ⟨0, by simp, by simp, c, h1, by simp, by simpa using h3⟩, h4⟩
      · refine .inr ⟨row, col, ⟨k + 1, by simpa using hk, ?_, c, h2, h3, by simpa using h4⟩, ?_⟩
        · rw [h1]
          congr 2
          omega
        · rwa [hkeep row col ⟨k, hk, h1, c, h2, h3, h4⟩] at h5
    · rintro (h | ⟨row, col, ⟨k, hk, h1, c, h2, h3, h4⟩, h5⟩)
      · exact .inl (.inl h)
      · cases k with
        | zero =>
          refine .inl (.inr ⟨c, h2, by omega, by simpa using h4, ?_⟩)
          have hr : wrapRow (vy + r) = row := by simp [Fin.ext_iff, h1]
          have hc : wrapCol (vx + c) = col := by simp [Fin.ext_iff, h3]
          rwa [hr, hc]
        | succ k =>
          have hc : Framebuffer.covers vx vy (r + 1) bs row col := by
            refine ⟨k, by simpa using hk, ?_, c, h2, h3, by simpa using h4⟩
            rw [h1]
            congr 2
            omega
          exact .inr ⟨row, col, hc, by rwa [hkeep row col hc]⟩

end Sys2Proof.Machine
end

