-- ==== Sys2Proof/Laws/State.lean ====
section
/-! SUPPORT. Beside State: one lemma per field per update, true by rfl, and the reads of one register, entry, key and
pixel after each update, so that no later proof unfolds a record update. -/

namespace Sys2Proof.Machine

/-! ### setV -/

@[simp] theorem State.setV_v (s : State) (r : Reg) (b : Byte) : (s.setV r b).v = s.v.set r b := rfl
@[simp] theorem State.setV_i (s : State) (r : Reg) (b : Byte) : (s.setV r b).i = s.i := rfl
@[simp] theorem State.setV_pc (s : State) (r : Reg) (b : Byte) : (s.setV r b).pc = s.pc := rfl
@[simp] theorem State.setV_stack (s : State) (r : Reg) (b : Byte) : (s.setV r b).stack = s.stack := rfl
@[simp] theorem State.setV_sp (s : State) (r : Reg) (b : Byte) : (s.setV r b).sp = s.sp := rfl
@[simp] theorem State.setV_dt (s : State) (r : Reg) (b : Byte) : (s.setV r b).dt = s.dt := rfl
@[simp] theorem State.setV_st (s : State) (r : Reg) (b : Byte) : (s.setV r b).st = s.st := rfl
@[simp] theorem State.setV_mem (s : State) (r : Reg) (b : Byte) : (s.setV r b).mem = s.mem := rfl
@[simp] theorem State.setV_fb (s : State) (r : Reg) (b : Byte) : (s.setV r b).fb = s.fb := rfl
@[simp] theorem State.setV_keys (s : State) (r : Reg) (b : Byte) : (s.setV r b).keys = s.keys := rfl
@[simp] theorem State.setV_mode (s : State) (r : Reg) (b : Byte) : (s.setV r b).mode = s.mode := rfl
@[simp] theorem State.setV_inputs (s : State) (r : Reg) (b : Byte) : (s.setV r b).inputs = s.inputs := rfl
@[simp] theorem State.setV_draws (s : State) (r : Reg) (b : Byte) : (s.setV r b).draws = s.draws := rfl
@[simp] theorem State.setV_loadPhase (s : State) (r : Reg) (b : Byte) : (s.setV r b).loadPhase = s.loadPhase := rfl
@[simp] theorem State.setV_stackEntry (s : State) (r : Reg) (b : Byte) (j' : Fin 16) : (s.setV r b).stackEntry j' = s.stackEntry j' := rfl
@[simp] theorem State.setV_key (s : State) (r : Reg) (b : Byte) (k' : Reg) : (s.setV r b).key k' = s.key k' := rfl
@[simp] theorem State.setV_pixel (s : State) (r : Reg) (b : Byte) (row : Fin 32) (col : Fin 64) : (s.setV r b).pixel row col = s.pixel row col := rfl
@[simp] theorem State.setV_indexAddress (s : State) (r : Reg) (b : Byte) (k' : Nat) : (s.setV r b).indexAddress k' = s.indexAddress k' := rfl

/-! ### setVs -/

@[simp] theorem State.setVs_v (s : State) (vs : Vector Byte 16) : (s.setVs vs).v = vs := rfl
@[simp] theorem State.setVs_i (s : State) (vs : Vector Byte 16) : (s.setVs vs).i = s.i := rfl
@[simp] theorem State.setVs_pc (s : State) (vs : Vector Byte 16) : (s.setVs vs).pc = s.pc := rfl
@[simp] theorem State.setVs_stack (s : State) (vs : Vector Byte 16) : (s.setVs vs).stack = s.stack := rfl
@[simp] theorem State.setVs_sp (s : State) (vs : Vector Byte 16) : (s.setVs vs).sp = s.sp := rfl
@[simp] theorem State.setVs_dt (s : State) (vs : Vector Byte 16) : (s.setVs vs).dt = s.dt := rfl
@[simp] theorem State.setVs_st (s : State) (vs : Vector Byte 16) : (s.setVs vs).st = s.st := rfl
@[simp] theorem State.setVs_mem (s : State) (vs : Vector Byte 16) : (s.setVs vs).mem = s.mem := rfl
@[simp] theorem State.setVs_fb (s : State) (vs : Vector Byte 16) : (s.setVs vs).fb = s.fb := rfl
@[simp] theorem State.setVs_keys (s : State) (vs : Vector Byte 16) : (s.setVs vs).keys = s.keys := rfl
@[simp] theorem State.setVs_mode (s : State) (vs : Vector Byte 16) : (s.setVs vs).mode = s.mode := rfl
@[simp] theorem State.setVs_inputs (s : State) (vs : Vector Byte 16) : (s.setVs vs).inputs = s.inputs := rfl
@[simp] theorem State.setVs_draws (s : State) (vs : Vector Byte 16) : (s.setVs vs).draws = s.draws := rfl
@[simp] theorem State.setVs_loadPhase (s : State) (vs : Vector Byte 16) : (s.setVs vs).loadPhase = s.loadPhase := rfl
@[simp] theorem State.setVs_stackEntry (s : State) (vs : Vector Byte 16) (j' : Fin 16) : (s.setVs vs).stackEntry j' = s.stackEntry j' := rfl
@[simp] theorem State.setVs_key (s : State) (vs : Vector Byte 16) (k' : Reg) : (s.setVs vs).key k' = s.key k' := rfl
@[simp] theorem State.setVs_pixel (s : State) (vs : Vector Byte 16) (row : Fin 32) (col : Fin 64) : (s.setVs vs).pixel row col = s.pixel row col := rfl
@[simp] theorem State.setVs_indexAddress (s : State) (vs : Vector Byte 16) (k' : Nat) : (s.setVs vs).indexAddress k' = s.indexAddress k' := rfl

/-! ### setI -/

@[simp] theorem State.setI_v (s : State) (w : Word) : (s.setI w).v = s.v := rfl
@[simp] theorem State.setI_i (s : State) (w : Word) : (s.setI w).i = w := rfl
@[simp] theorem State.setI_pc (s : State) (w : Word) : (s.setI w).pc = s.pc := rfl
@[simp] theorem State.setI_stack (s : State) (w : Word) : (s.setI w).stack = s.stack := rfl
@[simp] theorem State.setI_sp (s : State) (w : Word) : (s.setI w).sp = s.sp := rfl
@[simp] theorem State.setI_dt (s : State) (w : Word) : (s.setI w).dt = s.dt := rfl
@[simp] theorem State.setI_st (s : State) (w : Word) : (s.setI w).st = s.st := rfl
@[simp] theorem State.setI_mem (s : State) (w : Word) : (s.setI w).mem = s.mem := rfl
@[simp] theorem State.setI_fb (s : State) (w : Word) : (s.setI w).fb = s.fb := rfl
@[simp] theorem State.setI_keys (s : State) (w : Word) : (s.setI w).keys = s.keys := rfl
@[simp] theorem State.setI_mode (s : State) (w : Word) : (s.setI w).mode = s.mode := rfl
@[simp] theorem State.setI_inputs (s : State) (w : Word) : (s.setI w).inputs = s.inputs := rfl
@[simp] theorem State.setI_draws (s : State) (w : Word) : (s.setI w).draws = s.draws := rfl
@[simp] theorem State.setI_loadPhase (s : State) (w : Word) : (s.setI w).loadPhase = s.loadPhase := rfl
@[simp] theorem State.setI_getV (s : State) (w : Word) (r' : Reg) : (s.setI w).getV r' = s.getV r' := rfl
@[simp] theorem State.setI_stackEntry (s : State) (w : Word) (j' : Fin 16) : (s.setI w).stackEntry j' = s.stackEntry j' := rfl
@[simp] theorem State.setI_key (s : State) (w : Word) (k' : Reg) : (s.setI w).key k' = s.key k' := rfl
@[simp] theorem State.setI_pixel (s : State) (w : Word) (row : Fin 32) (col : Fin 64) : (s.setI w).pixel row col = s.pixel row col := rfl

/-! ### setPc -/

@[simp] theorem State.setPc_v (s : State) (w : Word) : (s.setPc w).v = s.v := rfl
@[simp] theorem State.setPc_i (s : State) (w : Word) : (s.setPc w).i = s.i := rfl
@[simp] theorem State.setPc_pc (s : State) (w : Word) : (s.setPc w).pc = w := rfl
@[simp] theorem State.setPc_stack (s : State) (w : Word) : (s.setPc w).stack = s.stack := rfl
@[simp] theorem State.setPc_sp (s : State) (w : Word) : (s.setPc w).sp = s.sp := rfl
@[simp] theorem State.setPc_dt (s : State) (w : Word) : (s.setPc w).dt = s.dt := rfl
@[simp] theorem State.setPc_st (s : State) (w : Word) : (s.setPc w).st = s.st := rfl
@[simp] theorem State.setPc_mem (s : State) (w : Word) : (s.setPc w).mem = s.mem := rfl
@[simp] theorem State.setPc_fb (s : State) (w : Word) : (s.setPc w).fb = s.fb := rfl
@[simp] theorem State.setPc_keys (s : State) (w : Word) : (s.setPc w).keys = s.keys := rfl
@[simp] theorem State.setPc_mode (s : State) (w : Word) : (s.setPc w).mode = s.mode := rfl
@[simp] theorem State.setPc_inputs (s : State) (w : Word) : (s.setPc w).inputs = s.inputs := rfl
@[simp] theorem State.setPc_draws (s : State) (w : Word) : (s.setPc w).draws = s.draws := rfl
@[simp] theorem State.setPc_loadPhase (s : State) (w : Word) : (s.setPc w).loadPhase = s.loadPhase := rfl
@[simp] theorem State.setPc_getV (s : State) (w : Word) (r' : Reg) : (s.setPc w).getV r' = s.getV r' := rfl
@[simp] theorem State.setPc_stackEntry (s : State) (w : Word) (j' : Fin 16) : (s.setPc w).stackEntry j' = s.stackEntry j' := rfl
@[simp] theorem State.setPc_key (s : State) (w : Word) (k' : Reg) : (s.setPc w).key k' = s.key k' := rfl
@[simp] theorem State.setPc_pixel (s : State) (w : Word) (row : Fin 32) (col : Fin 64) : (s.setPc w).pixel row col = s.pixel row col := rfl
@[simp] theorem State.setPc_indexAddress (s : State) (w : Word) (k' : Nat) : (s.setPc w).indexAddress k' = s.indexAddress k' := rfl

/-! ### setStackEntry -/

@[simp] theorem State.setStackEntry_v (s : State) (j : Fin 16) (w : Word) : (s.setStackEntry j w).v = s.v := rfl
@[simp] theorem State.setStackEntry_i (s : State) (j : Fin 16) (w : Word) : (s.setStackEntry j w).i = s.i := rfl
@[simp] theorem State.setStackEntry_pc (s : State) (j : Fin 16) (w : Word) : (s.setStackEntry j w).pc = s.pc := rfl
@[simp] theorem State.setStackEntry_stack (s : State) (j : Fin 16) (w : Word) : (s.setStackEntry j w).stack = s.stack.set j w := rfl
@[simp] theorem State.setStackEntry_sp (s : State) (j : Fin 16) (w : Word) : (s.setStackEntry j w).sp = s.sp := rfl
@[simp] theorem State.setStackEntry_dt (s : State) (j : Fin 16) (w : Word) : (s.setStackEntry j w).dt = s.dt := rfl
@[simp] theorem State.setStackEntry_st (s : State) (j : Fin 16) (w : Word) : (s.setStackEntry j w).st = s.st := rfl
@[simp] theorem State.setStackEntry_mem (s : State) (j : Fin 16) (w : Word) : (s.setStackEntry j w).mem = s.mem := rfl
@[simp] theorem State.setStackEntry_fb (s : State) (j : Fin 16) (w : Word) : (s.setStackEntry j w).fb = s.fb := rfl
@[simp] theorem State.setStackEntry_keys (s : State) (j : Fin 16) (w : Word) : (s.setStackEntry j w).keys = s.keys := rfl
@[simp] theorem State.setStackEntry_mode (s : State) (j : Fin 16) (w : Word) : (s.setStackEntry j w).mode = s.mode := rfl
@[simp] theorem State.setStackEntry_inputs (s : State) (j : Fin 16) (w : Word) : (s.setStackEntry j w).inputs = s.inputs := rfl
@[simp] theorem State.setStackEntry_draws (s : State) (j : Fin 16) (w : Word) : (s.setStackEntry j w).draws = s.draws := rfl
@[simp] theorem State.setStackEntry_loadPhase (s : State) (j : Fin 16) (w : Word) : (s.setStackEntry j w).loadPhase = s.loadPhase := rfl
@[simp] theorem State.setStackEntry_getV (s : State) (j : Fin 16) (w : Word) (r' : Reg) : (s.setStackEntry j w).getV r' = s.getV r' := rfl
@[simp] theorem State.setStackEntry_key (s : State) (j : Fin 16) (w : Word) (k' : Reg) : (s.setStackEntry j w).key k' = s.key k' := rfl
@[simp] theorem State.setStackEntry_pixel (s : State) (j : Fin 16) (w : Word) (row : Fin 32) (col : Fin 64) : (s.setStackEntry j w).pixel row col = s.pixel row col := rfl
@[simp] theorem State.setStackEntry_indexAddress (s : State) (j : Fin 16) (w : Word) (k' : Nat) : (s.setStackEntry j w).indexAddress k' = s.indexAddress k' := rfl

/-! ### setSp -/

@[simp] theorem State.setSp_v (s : State) (n : Fin 17) : (s.setSp n).v = s.v := rfl
@[simp] theorem State.setSp_i (s : State) (n : Fin 17) : (s.setSp n).i = s.i := rfl
@[simp] theorem State.setSp_pc (s : State) (n : Fin 17) : (s.setSp n).pc = s.pc := rfl
@[simp] theorem State.setSp_stack (s : State) (n : Fin 17) : (s.setSp n).stack = s.stack := rfl
@[simp] theorem State.setSp_sp (s : State) (n : Fin 17) : (s.setSp n).sp = n := rfl
@[simp] theorem State.setSp_dt (s : State) (n : Fin 17) : (s.setSp n).dt = s.dt := rfl
@[simp] theorem State.setSp_st (s : State) (n : Fin 17) : (s.setSp n).st = s.st := rfl
@[simp] theorem State.setSp_mem (s : State) (n : Fin 17) : (s.setSp n).mem = s.mem := rfl
@[simp] theorem State.setSp_fb (s : State) (n : Fin 17) : (s.setSp n).fb = s.fb := rfl
@[simp] theorem State.setSp_keys (s : State) (n : Fin 17) : (s.setSp n).keys = s.keys := rfl
@[simp] theorem State.setSp_mode (s : State) (n : Fin 17) : (s.setSp n).mode = s.mode := rfl
@[simp] theorem State.setSp_inputs (s : State) (n : Fin 17) : (s.setSp n).inputs = s.inputs := rfl
@[simp] theorem State.setSp_draws (s : State) (n : Fin 17) : (s.setSp n).draws = s.draws := rfl
@[simp] theorem State.setSp_loadPhase (s : State) (n : Fin 17) : (s.setSp n).loadPhase = s.loadPhase := rfl
@[simp] theorem State.setSp_getV (s : State) (n : Fin 17) (r' : Reg) : (s.setSp n).getV r' = s.getV r' := rfl
@[simp] theorem State.setSp_stackEntry (s : State) (n : Fin 17) (j' : Fin 16) : (s.setSp n).stackEntry j' = s.stackEntry j' := rfl
@[simp] theorem State.setSp_key (s : State) (n : Fin 17) (k' : Reg) : (s.setSp n).key k' = s.key k' := rfl
@[simp] theorem State.setSp_pixel (s : State) (n : Fin 17) (row : Fin 32) (col : Fin 64) : (s.setSp n).pixel row col = s.pixel row col := rfl
@[simp] theorem State.setSp_indexAddress (s : State) (n : Fin 17) (k' : Nat) : (s.setSp n).indexAddress k' = s.indexAddress k' := rfl

/-! ### setDt -/

@[simp] theorem State.setDt_v (s : State) (b : Byte) : (s.setDt b).v = s.v := rfl
@[simp] theorem State.setDt_i (s : State) (b : Byte) : (s.setDt b).i = s.i := rfl
@[simp] theorem State.setDt_pc (s : State) (b : Byte) : (s.setDt b).pc = s.pc := rfl
@[simp] theorem State.setDt_stack (s : State) (b : Byte) : (s.setDt b).stack = s.stack := rfl
@[simp] theorem State.setDt_sp (s : State) (b : Byte) : (s.setDt b).sp = s.sp := rfl
@[simp] theorem State.setDt_dt (s : State) (b : Byte) : (s.setDt b).dt = b := rfl
@[simp] theorem State.setDt_st (s : State) (b : Byte) : (s.setDt b).st = s.st := rfl
@[simp] theorem State.setDt_mem (s : State) (b : Byte) : (s.setDt b).mem = s.mem := rfl
@[simp] theorem State.setDt_fb (s : State) (b : Byte) : (s.setDt b).fb = s.fb := rfl
@[simp] theorem State.setDt_keys (s : State) (b : Byte) : (s.setDt b).keys = s.keys := rfl
@[simp] theorem State.setDt_mode (s : State) (b : Byte) : (s.setDt b).mode = s.mode := rfl
@[simp] theorem State.setDt_inputs (s : State) (b : Byte) : (s.setDt b).inputs = s.inputs := rfl
@[simp] theorem State.setDt_draws (s : State) (b : Byte) : (s.setDt b).draws = s.draws := rfl
@[simp] theorem State.setDt_loadPhase (s : State) (b : Byte) : (s.setDt b).loadPhase = s.loadPhase := rfl
@[simp] theorem State.setDt_getV (s : State) (b : Byte) (r' : Reg) : (s.setDt b).getV r' = s.getV r' := rfl
@[simp] theorem State.setDt_stackEntry (s : State) (b : Byte) (j' : Fin 16) : (s.setDt b).stackEntry j' = s.stackEntry j' := rfl
@[simp] theorem State.setDt_key (s : State) (b : Byte) (k' : Reg) : (s.setDt b).key k' = s.key k' := rfl
@[simp] theorem State.setDt_pixel (s : State) (b : Byte) (row : Fin 32) (col : Fin 64) : (s.setDt b).pixel row col = s.pixel row col := rfl
@[simp] theorem State.setDt_indexAddress (s : State) (b : Byte) (k' : Nat) : (s.setDt b).indexAddress k' = s.indexAddress k' := rfl

/-! ### setSt -/

@[simp] theorem State.setSt_v (s : State) (b : Byte) : (s.setSt b).v = s.v := rfl
@[simp] theorem State.setSt_i (s : State) (b : Byte) : (s.setSt b).i = s.i := rfl
@[simp] theorem State.setSt_pc (s : State) (b : Byte) : (s.setSt b).pc = s.pc := rfl
@[simp] theorem State.setSt_stack (s : State) (b : Byte) : (s.setSt b).stack = s.stack := rfl
@[simp] theorem State.setSt_sp (s : State) (b : Byte) : (s.setSt b).sp = s.sp := rfl
@[simp] theorem State.setSt_dt (s : State) (b : Byte) : (s.setSt b).dt = s.dt := rfl
@[simp] theorem State.setSt_st (s : State) (b : Byte) : (s.setSt b).st = b := rfl
@[simp] theorem State.setSt_mem (s : State) (b : Byte) : (s.setSt b).mem = s.mem := rfl
@[simp] theorem State.setSt_fb (s : State) (b : Byte) : (s.setSt b).fb = s.fb := rfl
@[simp] theorem State.setSt_keys (s : State) (b : Byte) : (s.setSt b).keys = s.keys := rfl
@[simp] theorem State.setSt_mode (s : State) (b : Byte) : (s.setSt b).mode = s.mode := rfl
@[simp] theorem State.setSt_inputs (s : State) (b : Byte) : (s.setSt b).inputs = s.inputs := rfl
@[simp] theorem State.setSt_draws (s : State) (b : Byte) : (s.setSt b).draws = s.draws := rfl
@[simp] theorem State.setSt_loadPhase (s : State) (b : Byte) : (s.setSt b).loadPhase = s.loadPhase := rfl
@[simp] theorem State.setSt_getV (s : State) (b : Byte) (r' : Reg) : (s.setSt b).getV r' = s.getV r' := rfl
@[simp] theorem State.setSt_stackEntry (s : State) (b : Byte) (j' : Fin 16) : (s.setSt b).stackEntry j' = s.stackEntry j' := rfl
@[simp] theorem State.setSt_key (s : State) (b : Byte) (k' : Reg) : (s.setSt b).key k' = s.key k' := rfl
@[simp] theorem State.setSt_pixel (s : State) (b : Byte) (row : Fin 32) (col : Fin 64) : (s.setSt b).pixel row col = s.pixel row col := rfl
@[simp] theorem State.setSt_indexAddress (s : State) (b : Byte) (k' : Nat) : (s.setSt b).indexAddress k' = s.indexAddress k' := rfl

/-! ### setMem -/

@[simp] theorem State.setMem_v (s : State) (m : Memory) : (s.setMem m).v = s.v := rfl
@[simp] theorem State.setMem_i (s : State) (m : Memory) : (s.setMem m).i = s.i := rfl
@[simp] theorem State.setMem_pc (s : State) (m : Memory) : (s.setMem m).pc = s.pc := rfl
@[simp] theorem State.setMem_stack (s : State) (m : Memory) : (s.setMem m).stack = s.stack := rfl
@[simp] theorem State.setMem_sp (s : State) (m : Memory) : (s.setMem m).sp = s.sp := rfl
@[simp] theorem State.setMem_dt (s : State) (m : Memory) : (s.setMem m).dt = s.dt := rfl
@[simp] theorem State.setMem_st (s : State) (m : Memory) : (s.setMem m).st = s.st := rfl
@[simp] theorem State.setMem_mem (s : State) (m : Memory) : (s.setMem m).mem = m := rfl
@[simp] theorem State.setMem_fb (s : State) (m : Memory) : (s.setMem m).fb = s.fb := rfl
@[simp] theorem State.setMem_keys (s : State) (m : Memory) : (s.setMem m).keys = s.keys := rfl
@[simp] theorem State.setMem_mode (s : State) (m : Memory) : (s.setMem m).mode = s.mode := rfl
@[simp] theorem State.setMem_inputs (s : State) (m : Memory) : (s.setMem m).inputs = s.inputs := rfl
@[simp] theorem State.setMem_draws (s : State) (m : Memory) : (s.setMem m).draws = s.draws := rfl
@[simp] theorem State.setMem_loadPhase (s : State) (m : Memory) : (s.setMem m).loadPhase = s.loadPhase := rfl
@[simp] theorem State.setMem_getV (s : State) (m : Memory) (r' : Reg) : (s.setMem m).getV r' = s.getV r' := rfl
@[simp] theorem State.setMem_stackEntry (s : State) (m : Memory) (j' : Fin 16) : (s.setMem m).stackEntry j' = s.stackEntry j' := rfl
@[simp] theorem State.setMem_key (s : State) (m : Memory) (k' : Reg) : (s.setMem m).key k' = s.key k' := rfl
@[simp] theorem State.setMem_pixel (s : State) (m : Memory) (row : Fin 32) (col : Fin 64) : (s.setMem m).pixel row col = s.pixel row col := rfl
@[simp] theorem State.setMem_indexAddress (s : State) (m : Memory) (k' : Nat) : (s.setMem m).indexAddress k' = s.indexAddress k' := rfl

/-! ### setFb -/

@[simp] theorem State.setFb_v (s : State) (fb : Framebuffer) : (s.setFb fb).v = s.v := rfl
@[simp] theorem State.setFb_i (s : State) (fb : Framebuffer) : (s.setFb fb).i = s.i := rfl
@[simp] theorem State.setFb_pc (s : State) (fb : Framebuffer) : (s.setFb fb).pc = s.pc := rfl
@[simp] theorem State.setFb_stack (s : State) (fb : Framebuffer) : (s.setFb fb).stack = s.stack := rfl
@[simp] theorem State.setFb_sp (s : State) (fb : Framebuffer) : (s.setFb fb).sp = s.sp := rfl
@[simp] theorem State.setFb_dt (s : State) (fb : Framebuffer) : (s.setFb fb).dt = s.dt := rfl
@[simp] theorem State.setFb_st (s : State) (fb : Framebuffer) : (s.setFb fb).st = s.st := rfl
@[simp] theorem State.setFb_mem (s : State) (fb : Framebuffer) : (s.setFb fb).mem = s.mem := rfl
@[simp] theorem State.setFb_fb (s : State) (fb : Framebuffer) : (s.setFb fb).fb = fb := rfl
@[simp] theorem State.setFb_keys (s : State) (fb : Framebuffer) : (s.setFb fb).keys = s.keys := rfl
@[simp] theorem State.setFb_mode (s : State) (fb : Framebuffer) : (s.setFb fb).mode = s.mode := rfl
@[simp] theorem State.setFb_inputs (s : State) (fb : Framebuffer) : (s.setFb fb).inputs = s.inputs := rfl
@[simp] theorem State.setFb_draws (s : State) (fb : Framebuffer) : (s.setFb fb).draws = s.draws := rfl
@[simp] theorem State.setFb_loadPhase (s : State) (fb : Framebuffer) : (s.setFb fb).loadPhase = s.loadPhase := rfl
@[simp] theorem State.setFb_getV (s : State) (fb : Framebuffer) (r' : Reg) : (s.setFb fb).getV r' = s.getV r' := rfl
@[simp] theorem State.setFb_stackEntry (s : State) (fb : Framebuffer) (j' : Fin 16) : (s.setFb fb).stackEntry j' = s.stackEntry j' := rfl
@[simp] theorem State.setFb_key (s : State) (fb : Framebuffer) (k' : Reg) : (s.setFb fb).key k' = s.key k' := rfl
@[simp] theorem State.setFb_indexAddress (s : State) (fb : Framebuffer) (k' : Nat) : (s.setFb fb).indexAddress k' = s.indexAddress k' := rfl

/-! ### setKeys -/

@[simp] theorem State.setKeys_v (s : State) (k : BitVec 16) : (s.setKeys k).v = s.v := rfl
@[simp] theorem State.setKeys_i (s : State) (k : BitVec 16) : (s.setKeys k).i = s.i := rfl
@[simp] theorem State.setKeys_pc (s : State) (k : BitVec 16) : (s.setKeys k).pc = s.pc := rfl
@[simp] theorem State.setKeys_stack (s : State) (k : BitVec 16) : (s.setKeys k).stack = s.stack := rfl
@[simp] theorem State.setKeys_sp (s : State) (k : BitVec 16) : (s.setKeys k).sp = s.sp := rfl
@[simp] theorem State.setKeys_dt (s : State) (k : BitVec 16) : (s.setKeys k).dt = s.dt := rfl
@[simp] theorem State.setKeys_st (s : State) (k : BitVec 16) : (s.setKeys k).st = s.st := rfl
@[simp] theorem State.setKeys_mem (s : State) (k : BitVec 16) : (s.setKeys k).mem = s.mem := rfl
@[simp] theorem State.setKeys_fb (s : State) (k : BitVec 16) : (s.setKeys k).fb = s.fb := rfl
@[simp] theorem State.setKeys_keys (s : State) (k : BitVec 16) : (s.setKeys k).keys = k := rfl
@[simp] theorem State.setKeys_mode (s : State) (k : BitVec 16) : (s.setKeys k).mode = s.mode := rfl
@[simp] theorem State.setKeys_inputs (s : State) (k : BitVec 16) : (s.setKeys k).inputs = s.inputs := rfl
@[simp] theorem State.setKeys_draws (s : State) (k : BitVec 16) : (s.setKeys k).draws = s.draws := rfl
@[simp] theorem State.setKeys_loadPhase (s : State) (k : BitVec 16) : (s.setKeys k).loadPhase = s.loadPhase := rfl
@[simp] theorem State.setKeys_getV (s : State) (k : BitVec 16) (r' : Reg) : (s.setKeys k).getV r' = s.getV r' := rfl
@[simp] theorem State.setKeys_stackEntry (s : State) (k : BitVec 16) (j' : Fin 16) : (s.setKeys k).stackEntry j' = s.stackEntry j' := rfl
@[simp] theorem State.setKeys_pixel (s : State) (k : BitVec 16) (row : Fin 32) (col : Fin 64) : (s.setKeys k).pixel row col = s.pixel row col := rfl
@[simp] theorem State.setKeys_indexAddress (s : State) (k : BitVec 16) (k' : Nat) : (s.setKeys k).indexAddress k' = s.indexAddress k' := rfl

/-! ### setMode -/

@[simp] theorem State.setMode_v (s : State) (m : Mode) : (s.setMode m).v = s.v := rfl
@[simp] theorem State.setMode_i (s : State) (m : Mode) : (s.setMode m).i = s.i := rfl
@[simp] theorem State.setMode_pc (s : State) (m : Mode) : (s.setMode m).pc = s.pc := rfl
@[simp] theorem State.setMode_stack (s : State) (m : Mode) : (s.setMode m).stack = s.stack := rfl
@[simp] theorem State.setMode_sp (s : State) (m : Mode) : (s.setMode m).sp = s.sp := rfl
@[simp] theorem State.setMode_dt (s : State) (m : Mode) : (s.setMode m).dt = s.dt := rfl
@[simp] theorem State.setMode_st (s : State) (m : Mode) : (s.setMode m).st = s.st := rfl
@[simp] theorem State.setMode_mem (s : State) (m : Mode) : (s.setMode m).mem = s.mem := rfl
@[simp] theorem State.setMode_fb (s : State) (m : Mode) : (s.setMode m).fb = s.fb := rfl
@[simp] theorem State.setMode_keys (s : State) (m : Mode) : (s.setMode m).keys = s.keys := rfl
@[simp] theorem State.setMode_mode (s : State) (m : Mode) : (s.setMode m).mode = m := rfl
@[simp] theorem State.setMode_inputs (s : State) (m : Mode) : (s.setMode m).inputs = s.inputs := rfl
@[simp] theorem State.setMode_draws (s : State) (m : Mode) : (s.setMode m).draws = s.draws := rfl
@[simp] theorem State.setMode_loadPhase (s : State) (m : Mode) : (s.setMode m).loadPhase = s.loadPhase := rfl
@[simp] theorem State.setMode_getV (s : State) (m : Mode) (r' : Reg) : (s.setMode m).getV r' = s.getV r' := rfl
@[simp] theorem State.setMode_stackEntry (s : State) (m : Mode) (j' : Fin 16) : (s.setMode m).stackEntry j' = s.stackEntry j' := rfl
@[simp] theorem State.setMode_key (s : State) (m : Mode) (k' : Reg) : (s.setMode m).key k' = s.key k' := rfl
@[simp] theorem State.setMode_pixel (s : State) (m : Mode) (row : Fin 32) (col : Fin 64) : (s.setMode m).pixel row col = s.pixel row col := rfl
@[simp] theorem State.setMode_indexAddress (s : State) (m : Mode) (k' : Nat) : (s.setMode m).indexAddress k' = s.indexAddress k' := rfl

/-! ### setInputs -/

@[simp] theorem State.setInputs_v (s : State) (l : List Input) : (s.setInputs l).v = s.v := rfl
@[simp] theorem State.setInputs_i (s : State) (l : List Input) : (s.setInputs l).i = s.i := rfl
@[simp] theorem State.setInputs_pc (s : State) (l : List Input) : (s.setInputs l).pc = s.pc := rfl
@[simp] theorem State.setInputs_stack (s : State) (l : List Input) : (s.setInputs l).stack = s.stack := rfl
@[simp] theorem State.setInputs_sp (s : State) (l : List Input) : (s.setInputs l).sp = s.sp := rfl
@[simp] theorem State.setInputs_dt (s : State) (l : List Input) : (s.setInputs l).dt = s.dt := rfl
@[simp] theorem State.setInputs_st (s : State) (l : List Input) : (s.setInputs l).st = s.st := rfl
@[simp] theorem State.setInputs_mem (s : State) (l : List Input) : (s.setInputs l).mem = s.mem := rfl
@[simp] theorem State.setInputs_fb (s : State) (l : List Input) : (s.setInputs l).fb = s.fb := rfl
@[simp] theorem State.setInputs_keys (s : State) (l : List Input) : (s.setInputs l).keys = s.keys := rfl
@[simp] theorem State.setInputs_mode (s : State) (l : List Input) : (s.setInputs l).mode = s.mode := rfl
@[simp] theorem State.setInputs_inputs (s : State) (l : List Input) : (s.setInputs l).inputs = l := rfl
@[simp] theorem State.setInputs_draws (s : State) (l : List Input) : (s.setInputs l).draws = s.draws := rfl
@[simp] theorem State.setInputs_loadPhase (s : State) (l : List Input) : (s.setInputs l).loadPhase = s.loadPhase := rfl
@[simp] theorem State.setInputs_getV (s : State) (l : List Input) (r' : Reg) : (s.setInputs l).getV r' = s.getV r' := rfl
@[simp] theorem State.setInputs_stackEntry (s : State) (l : List Input) (j' : Fin 16) : (s.setInputs l).stackEntry j' = s.stackEntry j' := rfl
@[simp] theorem State.setInputs_key (s : State) (l : List Input) (k' : Reg) : (s.setInputs l).key k' = s.key k' := rfl
@[simp] theorem State.setInputs_pixel (s : State) (l : List Input) (row : Fin 32) (col : Fin 64) : (s.setInputs l).pixel row col = s.pixel row col := rfl
@[simp] theorem State.setInputs_indexAddress (s : State) (l : List Input) (k' : Nat) : (s.setInputs l).indexAddress k' = s.indexAddress k' := rfl

/-! ### setDraws -/

@[simp] theorem State.setDraws_v (s : State) (n : Nat) : (s.setDraws n).v = s.v := rfl
@[simp] theorem State.setDraws_i (s : State) (n : Nat) : (s.setDraws n).i = s.i := rfl
@[simp] theorem State.setDraws_pc (s : State) (n : Nat) : (s.setDraws n).pc = s.pc := rfl
@[simp] theorem State.setDraws_stack (s : State) (n : Nat) : (s.setDraws n).stack = s.stack := rfl
@[simp] theorem State.setDraws_sp (s : State) (n : Nat) : (s.setDraws n).sp = s.sp := rfl
@[simp] theorem State.setDraws_dt (s : State) (n : Nat) : (s.setDraws n).dt = s.dt := rfl
@[simp] theorem State.setDraws_st (s : State) (n : Nat) : (s.setDraws n).st = s.st := rfl
@[simp] theorem State.setDraws_mem (s : State) (n : Nat) : (s.setDraws n).mem = s.mem := rfl
@[simp] theorem State.setDraws_fb (s : State) (n : Nat) : (s.setDraws n).fb = s.fb := rfl
@[simp] theorem State.setDraws_keys (s : State) (n : Nat) : (s.setDraws n).keys = s.keys := rfl
@[simp] theorem State.setDraws_mode (s : State) (n : Nat) : (s.setDraws n).mode = s.mode := rfl
@[simp] theorem State.setDraws_inputs (s : State) (n : Nat) : (s.setDraws n).inputs = s.inputs := rfl
@[simp] theorem State.setDraws_draws (s : State) (n : Nat) : (s.setDraws n).draws = n := rfl
@[simp] theorem State.setDraws_loadPhase (s : State) (n : Nat) : (s.setDraws n).loadPhase = s.loadPhase := rfl
@[simp] theorem State.setDraws_getV (s : State) (n : Nat) (r' : Reg) : (s.setDraws n).getV r' = s.getV r' := rfl
@[simp] theorem State.setDraws_stackEntry (s : State) (n : Nat) (j' : Fin 16) : (s.setDraws n).stackEntry j' = s.stackEntry j' := rfl
@[simp] theorem State.setDraws_key (s : State) (n : Nat) (k' : Reg) : (s.setDraws n).key k' = s.key k' := rfl
@[simp] theorem State.setDraws_pixel (s : State) (n : Nat) (row : Fin 32) (col : Fin 64) : (s.setDraws n).pixel row col = s.pixel row col := rfl
@[simp] theorem State.setDraws_indexAddress (s : State) (n : Nat) (k' : Nat) : (s.setDraws n).indexAddress k' = s.indexAddress k' := rfl

/-! ### setLoadPhase -/

@[simp] theorem State.setLoadPhase_v (s : State) (b : Bool) : (s.setLoadPhase b).v = s.v := rfl
@[simp] theorem State.setLoadPhase_i (s : State) (b : Bool) : (s.setLoadPhase b).i = s.i := rfl
@[simp] theorem State.setLoadPhase_pc (s : State) (b : Bool) : (s.setLoadPhase b).pc = s.pc := rfl
@[simp] theorem State.setLoadPhase_stack (s : State) (b : Bool) : (s.setLoadPhase b).stack = s.stack := rfl
@[simp] theorem State.setLoadPhase_sp (s : State) (b : Bool) : (s.setLoadPhase b).sp = s.sp := rfl
@[simp] theorem State.setLoadPhase_dt (s : State) (b : Bool) : (s.setLoadPhase b).dt = s.dt := rfl
@[simp] theorem State.setLoadPhase_st (s : State) (b : Bool) : (s.setLoadPhase b).st = s.st := rfl
@[simp] theorem State.setLoadPhase_mem (s : State) (b : Bool) : (s.setLoadPhase b).mem = s.mem := rfl
@[simp] theorem State.setLoadPhase_fb (s : State) (b : Bool) : (s.setLoadPhase b).fb = s.fb := rfl
@[simp] theorem State.setLoadPhase_keys (s : State) (b : Bool) : (s.setLoadPhase b).keys = s.keys := rfl
@[simp] theorem State.setLoadPhase_mode (s : State) (b : Bool) : (s.setLoadPhase b).mode = s.mode := rfl
@[simp] theorem State.setLoadPhase_inputs (s : State) (b : Bool) : (s.setLoadPhase b).inputs = s.inputs := rfl
@[simp] theorem State.setLoadPhase_draws (s : State) (b : Bool) : (s.setLoadPhase b).draws = s.draws := rfl
@[simp] theorem State.setLoadPhase_loadPhase (s : State) (b : Bool) : (s.setLoadPhase b).loadPhase = b := rfl
@[simp] theorem State.setLoadPhase_getV (s : State) (b : Bool) (r' : Reg) : (s.setLoadPhase b).getV r' = s.getV r' := rfl
@[simp] theorem State.setLoadPhase_stackEntry (s : State) (b : Bool) (j' : Fin 16) : (s.setLoadPhase b).stackEntry j' = s.stackEntry j' := rfl
@[simp] theorem State.setLoadPhase_key (s : State) (b : Bool) (k' : Reg) : (s.setLoadPhase b).key k' = s.key k' := rfl
@[simp] theorem State.setLoadPhase_pixel (s : State) (b : Bool) (row : Fin 32) (col : Fin 64) : (s.setLoadPhase b).pixel row col = s.pixel row col := rfl
@[simp] theorem State.setLoadPhase_indexAddress (s : State) (b : Bool) (k' : Nat) : (s.setLoadPhase b).indexAddress k' = s.indexAddress k' := rfl

/-! ### Reads of the piece an update writes -/

@[simp] theorem State.setV_getV (s : State) (r : Reg) (b : Byte) (r' : Reg) :
    (s.setV r b).getV r' = if r' = r then b else s.getV r' := by
  simp only [State.getV, State.setV, Vector.get_eq_getElem, Vector.getElem_set, Fin.ext_iff, eq_comm]

@[simp] theorem State.setVs_getV (s : State) (vs : Vector Byte 16) (r : Reg) : (s.setVs vs).getV r = vs.get r := rfl

@[simp] theorem State.setStackEntry_stackEntry (s : State) (j : Fin 16) (w : Word) (j' : Fin 16) :
    (s.setStackEntry j w).stackEntry j' = if j' = j then w else s.stackEntry j' := by
  simp only [State.stackEntry, State.setStackEntry, Vector.get_eq_getElem, Vector.getElem_set, Fin.ext_iff, eq_comm]

@[simp] theorem State.setKeys_key (s : State) (k : BitVec 16) (r : Reg) : (s.setKeys k).key r = k.getLsb r := rfl

@[simp] theorem State.setFb_pixel (s : State) (fb : Framebuffer) (row : Fin 32) (col : Fin 64) :
    (s.setFb fb).pixel row col = fb.pixel row col := rfl

@[simp] theorem State.setI_indexAddress (s : State) (w : Word) (k : Nat) : (s.setI w).indexAddress k = w.toNat + k := rfl

/-! ### Equality of states -/

/-- Two states with the same register values have the same register file. -/
theorem State.v_ext (s t : State) (h : ∀ r, s.getV r = t.getV r) : s.v = t.v := by
  apply Vector.ext
  intro k hk
  have := h ⟨k, hk⟩
  simpa only [State.getV, Vector.get_eq_getElem] using this

/-- A pending-input or load-phase update commutes with a change of mode. -/
theorem State.setMode_setInputs (s : State) (m : Mode) (l : List Input) :
    (s.setInputs l).setMode m = (s.setMode m).setInputs l := rfl

end Sys2Proof.Machine
end

