-- ==== Sys2Proof/Laws/Ops.lean ====
section
/-! SUPPORT. What each shared operation does, said once: the pc outcomes, the fatal condition, the call stack, the range
check, stores and block loads, key numbers, flags and operands. -/

namespace Sys2Proof.Machine

/-! ## Equations that carry an operation to the updates of Laws/State.lean -/

@[simp] theorem State.advance_eq (s : State) : s.advance = s.setPc (s.pc + 2) := rfl

@[simp] theorem State.skipIf_eq (s : State) (c : Bool) : s.skipIf c = s.setPc (s.pc + if c then 4 else 2) := rfl

@[simp] theorem raise_eq (c : Cause) (s : State) : raise c s = .next (s.setMode (.halted c)) := rfl

@[simp] theorem State.setFlagThenV_eq (s : State) (f : Byte) (x : Reg) (b : Byte) :
    s.setFlagThenV f x b = (s.setV 15 f).setV x b := rfl

@[simp] theorem State.drawByte_eq (s : State) : s.drawByte = (Config.rndByte s.draws, s.setDraws (s.draws + 1)) := rfl

theorem State.indexAddress_eq (s : State) (k : Nat) : s.indexAddress k = s.i.toNat + k := rfl

@[simp] theorem State.returnAddress_eq (s : State) : s.returnAddress = s.pc + 2 := rfl

/-! ## The call stack (R18) -/

theorem State.push_of_lt (s : State) (a : Word) (h : s.sp.val < 16) :
    s.push a = some ((s.setStackEntry ⟨s.sp.val, h⟩ a).setSp ⟨s.sp.val + 1, by omega⟩) := dif_pos h

theorem State.push_of_full (s : State) (a : Word) (h : ¬ s.sp.val < 16) : s.push a = none := dif_neg h

theorem State.pop_of_pos (s : State) (h : 0 < s.sp.val) :
    s.pop = some (s.stackEntry ⟨s.sp.val - 1, by omega⟩, s.setSp ⟨s.sp.val - 1, by omega⟩) := dif_pos h

theorem State.pop_of_zero (s : State) (h : ¬ 0 < s.sp.val) : s.pop = none := dif_neg h

/-! ## The range check (R44) -/

theorem State.checkedAccess_ok (s : State) (n : Nat) (t : State) (h : n = 0 ∨ s.i.toNat + (n - 1) ≤ 4095) :
    s.checkedAccess n t = .next t := if_pos h

theorem State.checkedAccess_out (s : State) (n : Nat) (t : State) (h : ¬ (n = 0 ∨ s.i.toNat + (n - 1) ≤ 4095)) :
    s.checkedAccess n t = raise .memoryOutOfRange s := if_neg h

/-- Everything a checked access can answer. -/
theorem State.checkedAccess_next (s : State) (n : Nat) (t u : State) (h : s.checkedAccess n t = .next u) :
    u = t ∨ u = s.setMode (.halted .memoryOutOfRange) := by
  unfold State.checkedAccess at h
  split at h
  · exact .inl (Host.Outcome.next.inj h).symm
  · exact .inr (Host.Outcome.next.inj h).symm

/-! ## Stores (R175, R176) -/

/-- A byte of memory after a store that stays below 4096. -/
theorem State.storeBytes_read (s : State) (bs : List Byte) (a : Nat) (hm : s.mem.wf) (h : s.i.toNat + bs.length ≤ 4096) :
    (s.storeBytes bs).mem.read a =
      if h : s.i.toNat ≤ a ∧ a < s.i.toNat + bs.length then bs[a - s.i.toNat]'(by omega) else s.mem.read a := by
  simp only [State.storeBytes, State.indexAddress, Nat.add_zero, State.setMem_mem]
  exact Memory.read_writeBytes bs s.mem s.i.toNat a hm h

theorem State.storeBytes_eq (s : State) (bs : List Byte) :
    s.storeBytes bs = s.setMem (s.mem.writeBytes s.i.toNat bs) := rfl

@[simp] theorem State.storeBytes_v (s : State) (bs : List Byte) : (s.storeBytes bs).v = s.v := rfl
@[simp] theorem State.storeBytes_i (s : State) (bs : List Byte) : (s.storeBytes bs).i = s.i := rfl
@[simp] theorem State.storeBytes_pc (s : State) (bs : List Byte) : (s.storeBytes bs).pc = s.pc := rfl
@[simp] theorem State.storeBytes_stack (s : State) (bs : List Byte) : (s.storeBytes bs).stack = s.stack := rfl
@[simp] theorem State.storeBytes_sp (s : State) (bs : List Byte) : (s.storeBytes bs).sp = s.sp := rfl
@[simp] theorem State.storeBytes_dt (s : State) (bs : List Byte) : (s.storeBytes bs).dt = s.dt := rfl
@[simp] theorem State.storeBytes_st (s : State) (bs : List Byte) : (s.storeBytes bs).st = s.st := rfl
@[simp] theorem State.storeBytes_fb (s : State) (bs : List Byte) : (s.storeBytes bs).fb = s.fb := rfl
@[simp] theorem State.storeBytes_keys (s : State) (bs : List Byte) : (s.storeBytes bs).keys = s.keys := rfl
@[simp] theorem State.storeBytes_mode (s : State) (bs : List Byte) : (s.storeBytes bs).mode = s.mode := rfl
@[simp] theorem State.storeBytes_inputs (s : State) (bs : List Byte) : (s.storeBytes bs).inputs = s.inputs := rfl
@[simp] theorem State.storeBytes_draws (s : State) (bs : List Byte) : (s.storeBytes bs).draws = s.draws := rfl
@[simp] theorem State.storeBytes_loadPhase (s : State) (bs : List Byte) : (s.storeBytes bs).loadPhase = s.loadPhase := rfl
@[simp] theorem State.storeBytes_getV (s : State) (bs : List Byte) (r : Reg) : (s.storeBytes bs).getV r = s.getV r := rfl
@[simp] theorem State.storeBytes_stackEntry (s : State) (bs : List Byte) (j : Fin 16) : (s.storeBytes bs).stackEntry j = s.stackEntry j := rfl
@[simp] theorem State.storeBytes_key (s : State) (bs : List Byte) (k : Reg) : (s.storeBytes bs).key k = s.key k := rfl
@[simp] theorem State.storeBytes_pixel (s : State) (bs : List Byte) (row : Fin 32) (col : Fin 64) : (s.storeBytes bs).pixel row col = s.pixel row col := rfl

@[simp] theorem decimalDigits_length (b : Byte) : (decimalDigits b).length = 3 := rfl

@[simp] theorem State.blockBytes_length (s : State) (x : Reg) : (s.blockBytes x).length = x.val + 1 := by
  have := x.isLt
  simp only [State.blockBytes, blockCount, List.length_take, Vector.length_toList]
  omega

theorem State.blockBytes_getElem (s : State) (x : Reg) (k : Nat) (h : k < (s.blockBytes x).length) :
    (s.blockBytes x)[k] = s.getV ⟨k, by have := x.isLt; rw [s.blockBytes_length] at h; omega⟩ := by
  simp [State.blockBytes, State.getV, Vector.get_eq_getElem]

/-- The registers after a block load. -/
theorem State.loadedBlock_get (s : State) (x k : Reg) :
    (s.loadedBlock x).get k = if k ≤ x then s.mem.read (s.i.toNat + k.val) else s.getV k := by
  simp only [State.loadedBlock, Vector.get_eq_getElem, Vector.getElem_ofFn, State.indexAddress]

/-! ## Key numbers (R163) -/

theorem State.keyNumber_some (s : State) (x k : Reg) (h : k.val = (s.getV x).toNat) : s.keyNumber x = some k := by
  have hk := k.isLt
  unfold State.keyNumber
  rw [dif_pos (by omega)]
  exact congrArg some (Fin.ext h.symm)

theorem State.keyNumber_none (s : State) (x : Reg) (h : 15 < (s.getV x).toNat) : s.keyNumber x = none := by
  unfold State.keyNumber
  rw [dif_neg (by omega)]

/-! ## Flags (R135 to R139) -/

theorem flagByte_toNat (b : Bool) : (flagByte b).toNat = if b then 1 else 0 := by cases b <;> rfl

/-- The carry is 1 exactly when the sum exceeds 255 (R135). -/
theorem carryFlag_toNat (a b : Byte) : (carryFlag a b).toNat = if 255 < a.toNat + b.toNat then 1 else 0 := by
  have ha := a.isLt
  have hb := b.isLt
  have hs : (a.zeroExtend 9 + b.zeroExtend 9).toNat = a.toNat + b.toNat := by
    simp only [BitVec.toNat_add, BitVec.toNat_setWidth]
    omega
  have hbit : (a.zeroExtend 9 + b.zeroExtend 9).getLsbD 8 = decide (255 < a.toNat + b.toNat) := by
    rw [BitVec.getLsbD, hs, Nat.testBit_eq_decide_div_mod_eq]
    congr 1
    simp only [eq_iff_iff]
    omega
  rw [carryFlag, flagByte_toNat, hbit]
  simp

theorem notBorrowFlag_toNat (a b : Byte) : (notBorrowFlag a b).toNat = if b.toNat ≤ a.toNat then 1 else 0 := by
  rw [notBorrowFlag, flagByte_toNat]
  simp [BitVec.le_def]

theorem shiftedOutLow_toNat (t : Byte) : (shiftedOutLow t).toNat = t.toNat % 2 := by
  rw [shiftedOutLow, flagByte_toNat, BitVec.getLsbD, Nat.testBit_zero]
  by_cases h : t.toNat % 2 = 1
  · simp [h]
  · simp [h]
    omega

theorem shiftedOutHigh_toNat (t : Byte) : (shiftedOutHigh t).toNat = t.toNat / 128 := by
  have ht := t.isLt
  rw [shiftedOutHigh, flagByte_toNat, BitVec.getLsbD, Nat.testBit_eq_decide_div_mod_eq]
  have e : t.toNat / 2 ^ 7 % 2 = t.toNat / 128 := by omega
  rw [e]
  by_cases h : t.toNat / 128 = 1
  · simp [h]
  · simp only [h, decide_false, Bool.false_eq_true, if_false]
    omega

/-! ## Operands (R63, R174, R175) -/

@[simp] theorem addressOperand_toNat (nnn : BitVec 12) : (addressOperand nnn).toNat = nnn.toNat := by
  have := nnn.isLt
  simp only [addressOperand, BitVec.toNat_setWidth]
  omega

@[simp] theorem State.wideV_toNat (s : State) (r : Reg) : (s.wideV r).toNat = (s.getV r).toNat := by
  have := (s.getV r).isLt
  simp only [State.wideV, BitVec.toNat_setWidth]
  omega

theorem glyphAddress_toNat (b : Byte) : (glyphAddress b).toNat = b.toNat * 5 := by
  have := b.isLt
  have e : glyphAddress b = BitVec.ofNat 16 (b.toNat * 5) := by
    apply BitVec.eq_of_toNat_eq
    simp [glyphAddress, BitVec.toNat_mul]
  rw [e, BitVec.toNat_ofNat]
  omega

/-! ## The drawn sprite (R151) -/

/-- The pixels under the sprite of `State.drawn`. -/
theorem State.covers_iff_spriteOn (s : State) (x y : Reg) (n : BitVec 4) (row : Fin 32) (col : Fin 64) :
    Framebuffer.covers (s.getV x).toNat (s.getV y).toNat 0 (s.mem.readBytes (s.indexAddress 0) (rowCount n)) row col ↔
      s.spriteOn x y n row col := by
  simp only [Framebuffer.covers, State.spriteOn, Memory.readBytes_length, Memory.readBytes_getElem, State.indexAddress,
    rowCount, Nat.add_zero, Nat.zero_add]
  constructor
  · rintro ⟨k, hk, h1, c, h2, h3, h4⟩
    exact ⟨k, hk, c, h2, h1, h3, h4⟩
  · rintro ⟨k, hk, c, h2, h1, h3, h4⟩
    exact ⟨k, hk, h1, c, h2, h3, h4⟩

/-- Every pixel after the draw. -/
theorem State.drawn_pixel (s : State) (x y : Reg) (n : BitVec 4) (row : Fin 32) (col : Fin 64) [Decidable (s.spriteOn x y n row col)] :
    (s.drawn x y n).1.pixel row col = (decide (s.spriteOn x y n row col) ^^ s.pixel row col) := by
  have hn := n.isLt
  rw [State.drawn, Framebuffer.pixel_drawSprite _ _ _ _ (by simp only [Memory.readBytes_length, rowCount]; omega)]
  have h := s.covers_iff_spriteOn x y n row col
  congr 1
  exact decide_eq_decide.2 h

/-- The collision of the draw. -/
theorem State.drawn_collision (s : State) (x y : Reg) (n : BitVec 4) :
    (s.drawn x y n).2 = true ↔ ∃ row col, s.spriteOn x y n row col ∧ s.pixel row col = true := by
  have hn := n.isLt
  rw [State.drawn, Framebuffer.drawSprite_snd _ _ _ _ (by simp only [Memory.readBytes_length, rowCount]; omega)]
  simp only [Bool.false_eq_true, false_or, s.covers_iff_spriteOn]
  rfl

end Sys2Proof.Machine
end

