-- ==== Sys2Proof/Laws/PerInstr.lean ====
section
/-! SUPPORT. A statement about each instruction as syntax, with one lemma for each constructor: its word carries the
fixed bits of its row of the opcode map (spec/30_encoding.md R66). -/

namespace Sys2Proof.Laws

/-- The word of the instruction selects the row of R66 that its number names. -/
def RowMatches.Statement (i : Instr) : Prop :=
  i.wellFormed = true → ∃ r ∈ opcodeMap, r.number = i.rowNumber ∧ r.selects (encode i) = true

/-- The operation nibble of a format A word. -/
theorem formatA_selects (number : Nat) (op : BitVec 4) (nnn : BitVec 12) (p : Word) (hp : p = op ++ 0#12) :
    (Row.mk number p 0xF000).selects (formatA op nnn) = true := by
  have hm : (0xF000 : Word) = 0xF#4 ++ 0#12 := by decide
  have hf : ∀ a : BitVec 4, a &&& 0xF#4 = a := by decide
  simp only [Row.selects, formatA, hm, hp, beq_iff_eq]
  rw [BitVec.and_append, hf, BitVec.and_zero]

/-- The operation nibble of a format XK word. -/
theorem formatXK_selects (number : Nat) (op : BitVec 4) (x : Reg) (kk : Byte) (p : Word) (hp : p = op ++ 0#4 ++ 0#8) :
    (Row.mk number p 0xF000).selects (formatXK op x kk) = true := by
  have hm : (0xF000 : Word) = 0xF#4 ++ 0#4 ++ 0#8 := by decide
  have hf : ∀ a : BitVec 4, a &&& 0xF#4 = a := by decide
  simp only [Row.selects, formatXK, hm, hp, beq_iff_eq]
  rw [BitVec.and_append, BitVec.and_append, hf, BitVec.and_zero, BitVec.and_zero]

/-- The operation nibble and the low byte of a format X word. -/
theorem formatX_selects (number : Nat) (op : BitVec 4) (x : Reg) (kk : Byte) (p : Word) (hp : p = op ++ 0#4 ++ kk) :
    (Row.mk number p 0xF0FF).selects (formatXK op x kk) = true := by
  have hm : (0xF0FF : Word) = 0xF#4 ++ 0#4 ++ 0xFF#8 := by decide
  have hf : ∀ a : BitVec 4, a &&& 0xF#4 = a := by decide
  have hk : ∀ a : BitVec 8, a &&& 0xFF#8 = a := by decide
  simp only [Row.selects, formatXK, hm, hp, beq_iff_eq]
  rw [BitVec.and_append, BitVec.and_append, hf, hk, BitVec.and_zero]

/-- The first and the last nibble of a format XY word. -/
theorem formatXY_selects (number : Nat) (op : BitVec 4) (x y : Reg) (n : BitVec 4) (p : Word)
    (hp : p = op ++ 0#4 ++ 0#4 ++ n) : (Row.mk number p 0xF00F).selects (formatXYN op x y n) = true := by
  have hm : (0xF00F : Word) = 0xF#4 ++ 0#4 ++ 0#4 ++ 0xF#4 := by decide
  have hf : ∀ a : BitVec 4, a &&& 0xF#4 = a := by decide
  simp only [Row.selects, formatXYN, hm, hp, beq_iff_eq]
  rw [BitVec.and_append, BitVec.and_append, BitVec.and_append, hf, hf, BitVec.and_zero, BitVec.and_zero]

/-- The operation nibble of a format XYN word. -/
theorem formatXYN_selects (number : Nat) (op : BitVec 4) (x y : Reg) (n : BitVec 4) (p : Word)
    (hp : p = op ++ 0#4 ++ 0#4 ++ 0#4) : (Row.mk number p 0xF000).selects (formatXYN op x y n) = true := by
  have hm : (0xF000 : Word) = 0xF#4 ++ 0#4 ++ 0#4 ++ 0#4 := by decide
  have hf : ∀ a : BitVec 4, a &&& 0xF#4 = a := by decide
  simp only [Row.selects, formatXYN, hm, hp, beq_iff_eq]
  rw [BitVec.and_append, BitVec.and_append, BitVec.and_append, hf, BitVec.and_zero, BitVec.and_zero, BitVec.and_zero]

theorem RowMatches.cls : RowMatches.Statement .cls := fun _ => ⟨⟨1, 0x00E0, 0xFFFF⟩, by decide, rfl, by decide⟩
theorem RowMatches.ret : RowMatches.Statement .ret := fun _ => ⟨⟨2, 0x00EE, 0xFFFF⟩, by decide, rfl, by decide⟩
theorem RowMatches.sys (nnn : BitVec 12) : RowMatches.Statement (.sys nnn) := fun _ =>
  ⟨⟨3, 0x0000, 0xF000⟩, by decide, rfl, formatA_selects _ _ _ _ (by decide)⟩
theorem RowMatches.jp (nnn : BitVec 12) : RowMatches.Statement (.jp nnn) := fun _ =>
  ⟨⟨4, 0x1000, 0xF000⟩, by decide, rfl, formatA_selects _ _ _ _ (by decide)⟩
theorem RowMatches.call (nnn : BitVec 12) : RowMatches.Statement (.call nnn) := fun _ =>
  ⟨⟨5, 0x2000, 0xF000⟩, by decide, rfl, formatA_selects _ _ _ _ (by decide)⟩
theorem RowMatches.seByte (x : Reg) (kk : Byte) : RowMatches.Statement (.seByte x kk) := fun _ =>
  ⟨⟨6, 0x3000, 0xF000⟩, by decide, rfl, formatXK_selects _ _ _ _ _ (by decide)⟩
theorem RowMatches.sneByte (x : Reg) (kk : Byte) : RowMatches.Statement (.sneByte x kk) := fun _ =>
  ⟨⟨7, 0x4000, 0xF000⟩, by decide, rfl, formatXK_selects _ _ _ _ _ (by decide)⟩
theorem RowMatches.seReg (x y : Reg) : RowMatches.Statement (.seReg x y) := fun _ =>
  ⟨⟨8, 0x5000, 0xF00F⟩, by decide, rfl, formatXY_selects _ _ _ _ _ _ (by decide)⟩
theorem RowMatches.ldByte (x : Reg) (kk : Byte) : RowMatches.Statement (.ldByte x kk) := fun _ =>
  ⟨⟨9, 0x6000, 0xF000⟩, by decide, rfl, formatXK_selects _ _ _ _ _ (by decide)⟩
theorem RowMatches.addByte (x : Reg) (kk : Byte) : RowMatches.Statement (.addByte x kk) := fun _ =>
  ⟨⟨10, 0x7000, 0xF000⟩, by decide, rfl, formatXK_selects _ _ _ _ _ (by decide)⟩
theorem RowMatches.ldReg (x y : Reg) : RowMatches.Statement (.ldReg x y) := fun _ =>
  ⟨⟨11, 0x8000, 0xF00F⟩, by decide, rfl, formatXY_selects _ _ _ _ _ _ (by decide)⟩
theorem RowMatches.or (x y : Reg) : RowMatches.Statement (.or x y) := fun _ =>
  ⟨⟨12, 0x8001, 0xF00F⟩, by decide, rfl, formatXY_selects _ _ _ _ _ _ (by decide)⟩
theorem RowMatches.and (x y : Reg) : RowMatches.Statement (.and x y) := fun _ =>
  ⟨⟨13, 0x8002, 0xF00F⟩, by decide, rfl, formatXY_selects _ _ _ _ _ _ (by decide)⟩
theorem RowMatches.xor (x y : Reg) : RowMatches.Statement (.xor x y) := fun _ =>
  ⟨⟨14, 0x8003, 0xF00F⟩, by decide, rfl, formatXY_selects _ _ _ _ _ _ (by decide)⟩
theorem RowMatches.addReg (x y : Reg) : RowMatches.Statement (.addReg x y) := fun _ =>
  ⟨⟨15, 0x8004, 0xF00F⟩, by decide, rfl, formatXY_selects _ _ _ _ _ _ (by decide)⟩
theorem RowMatches.sub (x y : Reg) : RowMatches.Statement (.sub x y) := fun _ =>
  ⟨⟨16, 0x8005, 0xF00F⟩, by decide, rfl, formatXY_selects _ _ _ _ _ _ (by decide)⟩
theorem RowMatches.shr (x y : Reg) : RowMatches.Statement (.shr x y) := fun _ =>
  ⟨⟨17, 0x8006, 0xF00F⟩, by decide, rfl, formatXY_selects _ _ _ _ _ _ (by decide)⟩
theorem RowMatches.subn (x y : Reg) : RowMatches.Statement (.subn x y) := fun _ =>
  ⟨⟨18, 0x8007, 0xF00F⟩, by decide, rfl, formatXY_selects _ _ _ _ _ _ (by decide)⟩
theorem RowMatches.shl (x y : Reg) : RowMatches.Statement (.shl x y) := fun _ =>
  ⟨⟨19, 0x800E, 0xF00F⟩, by decide, rfl, formatXY_selects _ _ _ _ _ _ (by decide)⟩
theorem RowMatches.sneReg (x y : Reg) : RowMatches.Statement (.sneReg x y) := fun _ =>
  ⟨⟨20, 0x9000, 0xF00F⟩, by decide, rfl, formatXY_selects _ _ _ _ _ _ (by decide)⟩
theorem RowMatches.ldI (nnn : BitVec 12) : RowMatches.Statement (.ldI nnn) := fun _ =>
  ⟨⟨21, 0xA000, 0xF000⟩, by decide, rfl, formatA_selects _ _ _ _ (by decide)⟩
theorem RowMatches.jpV0 (nnn : BitVec 12) : RowMatches.Statement (.jpV0 nnn) := fun _ =>
  ⟨⟨22, 0xB000, 0xF000⟩, by decide, rfl, formatA_selects _ _ _ _ (by decide)⟩
theorem RowMatches.rnd (x : Reg) (kk : Byte) : RowMatches.Statement (.rnd x kk) := fun _ =>
  ⟨⟨23, 0xC000, 0xF000⟩, by decide, rfl, formatXK_selects _ _ _ _ _ (by decide)⟩
theorem RowMatches.drw (x y : Reg) (n : BitVec 4) : RowMatches.Statement (.drw x y n) := fun _ =>
  ⟨⟨24, 0xD000, 0xF000⟩, by decide, rfl, formatXYN_selects _ _ _ _ _ _ (by decide)⟩
theorem RowMatches.skp (x : Reg) : RowMatches.Statement (.skp x) := fun _ =>
  ⟨⟨25, 0xE09E, 0xF0FF⟩, by decide, rfl, formatX_selects _ _ _ _ _ (by decide)⟩
theorem RowMatches.sknp (x : Reg) : RowMatches.Statement (.sknp x) := fun _ =>
  ⟨⟨26, 0xE0A1, 0xF0FF⟩, by decide, rfl, formatX_selects _ _ _ _ _ (by decide)⟩
theorem RowMatches.ldVxDt (x : Reg) : RowMatches.Statement (.ldVxDt x) := fun _ =>
  ⟨⟨27, 0xF007, 0xF0FF⟩, by decide, rfl, formatX_selects _ _ _ _ _ (by decide)⟩
theorem RowMatches.ldVxK (x : Reg) : RowMatches.Statement (.ldVxK x) := fun _ =>
  ⟨⟨28, 0xF00A, 0xF0FF⟩, by decide, rfl, formatX_selects _ _ _ _ _ (by decide)⟩
theorem RowMatches.ldDtVx (x : Reg) : RowMatches.Statement (.ldDtVx x) := fun _ =>
  ⟨⟨29, 0xF015, 0xF0FF⟩, by decide, rfl, formatX_selects _ _ _ _ _ (by decide)⟩
theorem RowMatches.ldStVx (x : Reg) : RowMatches.Statement (.ldStVx x) := fun _ =>
  ⟨⟨30, 0xF018, 0xF0FF⟩, by decide, rfl, formatX_selects _ _ _ _ _ (by decide)⟩
theorem RowMatches.addI (x : Reg) : RowMatches.Statement (.addI x) := fun _ =>
  ⟨⟨31, 0xF01E, 0xF0FF⟩, by decide, rfl, formatX_selects _ _ _ _ _ (by decide)⟩
theorem RowMatches.ldF (x : Reg) : RowMatches.Statement (.ldF x) := fun _ =>
  ⟨⟨32, 0xF029, 0xF0FF⟩, by decide, rfl, formatX_selects _ _ _ _ _ (by decide)⟩
theorem RowMatches.ldB (x : Reg) : RowMatches.Statement (.ldB x) := fun _ =>
  ⟨⟨33, 0xF033, 0xF0FF⟩, by decide, rfl, formatX_selects _ _ _ _ _ (by decide)⟩
theorem RowMatches.storeRegs (x : Reg) : RowMatches.Statement (.storeRegs x) := fun _ =>
  ⟨⟨34, 0xF055, 0xF0FF⟩, by decide, rfl, formatX_selects _ _ _ _ _ (by decide)⟩
theorem RowMatches.loadRegs (x : Reg) : RowMatches.Statement (.loadRegs x) := fun _ =>
  ⟨⟨35, 0xF065, 0xF0FF⟩, by decide, rfl, formatX_selects _ _ _ _ _ (by decide)⟩

end Sys2Proof.Laws
end

