-- ==== Sys2Proof/Laws/Step.lean ====
section
/-! SUPPORT. What a step is, by the input it takes. -/

namespace Sys2Proof.Machine

/-- A step takes the host's next input off the list and applies it. -/
theorem step_eq (s : State) : step s = applyInput s.nextInput (s.setInputs s.inputs.tail) := by
  unfold step State.nextInput
  cases h : s.inputs with
  | nil =>
    have : s.setInputs [] = s := by
      cases s
      simp only at h
      subst h
      rfl
    simp [this]
  | cons e rest => rfl

theorem step_of_step (s : State) (h : s.nextInput = .step) : step s = stepEvent s.atStep := by
  rw [step_eq, h]
  rfl

theorem step_of_tick (s : State) (h : s.nextInput = .tick) : step s = .next (tickEvent (s.setInputs s.inputs.tail)) := by
  rw [step_eq, h]
  rfl

theorem step_of_keyPoll (s : State) (k : BitVec 16) (h : s.nextInput = .keyPoll k) :
    step s = .next (keyPollEvent k (s.setInputs s.inputs.tail)) := by
  rw [step_eq, h]
  rfl

theorem step_of_reset (s : State) (h : s.nextInput = .reset) : step s = .next (resetEvent (s.setInputs s.inputs.tail)) := by
  rw [step_eq, h]
  rfl

theorem step_of_loaderWrite (s : State) (a : BitVec 12) (b : Byte) (h : s.nextInput = .loaderWrite a b) :
    step s = loaderWriteEvent a b (s.setInputs s.inputs.tail) := by
  rw [step_eq, h]
  rfl

/-- The fetch: both bytes when pc is at most 4094, nothing above (R83). -/
theorem State.fetch_eq (s : State) :
    s.fetch = if s.pc.toNat ≤ 4094 then some (joinBytes (s.mem.read s.pc.toNat) (s.mem.read (s.pc.toNat + 1))) else none := by
  by_cases h : s.pc.toNat ≤ 4094
  · simp only [State.fetch, State.memRead, Config.addrMax]
    rw [if_pos (by omega), if_pos (by omega), if_pos h]
  · simp only [State.fetch, State.memRead, Config.addrMax, if_neg h]
    by_cases h1 : s.pc.toNat ≤ 4095
    · rw [if_pos h1, if_neg (by omega)]
    · rw [if_neg h1]

/-- Everything a Step event can answer: it changes nothing outside Running, and in Running it halts at the fetch, halts at the
decode, or runs the decoded instruction (R82 to R85, R89). -/
theorem stepEvent_cases (s : State) :
    (s.mode ≠ .running ∧ stepEvent s = .next s) ∨
    (s.mode = .running ∧ s.fetch = none ∧ stepEvent s = .next (s.setMode (.halted .memoryOutOfRange))) ∨
    (s.mode = .running ∧ ∃ w e, s.fetch = some w ∧ decode w = .error e ∧
      stepEvent s = .next (s.setMode (.halted .unrecognizedInstruction))) ∨
    (s.mode = .running ∧ ∃ w i, s.fetch = some w ∧ decode w = .ok i ∧ stepEvent s = exec i s) := by
  unfold stepEvent
  cases hm : s.mode with
  | running =>
    refine .inr ?_
    have hr : State.runInstruction s = match s.fetch with
      | none => raise .memoryOutOfRange s
      | some w =>
        match decode w with
        | .error _ => raise .unrecognizedInstruction s
        | .ok i => exec i s := rfl
    cases hf : s.fetch with
    | none => exact .inl ⟨rfl, rfl, by simp only [hr, hf, raise_eq]⟩
    | some w =>
      cases hd : decode w with
      | error e => exact .inr (.inl ⟨rfl, w, e, rfl, hd, by simp only [hr, hf, hd, raise_eq]⟩)
      | ok i => exact .inr (.inr ⟨rfl, w, i, rfl, hd, by simp only [hr, hf, hd]⟩)
  | awaitingKey x => exact .inl ⟨by simp, rfl⟩
  | halted c => exact .inl ⟨by simp, rfl⟩

/-! ## Runs -/

/-- A run goes on from the next state of its first step. -/
theorem run_of_next (M : Host.Core) (n : Nat) (s u : M.State) (h : M.step s = .next u) : M.run (n + 1) s = M.run n u := by
  simp only [Host.Core.run, h]

/-- A run that answers a next state has a first step that does. -/
theorem run_of_succ (M : Host.Core) (n : Nat) (s t : M.State) (h : M.run (n + 1) s = .next t) :
    ∃ u, M.step s = .next u ∧ M.run n u = .next t := by
  rw [Host.Core.run] at h
  cases hs : M.step s with
  | next u =>
    rw [hs] at h
    exact ⟨u, rfl, h⟩
  | fault r =>
    rw [hs] at h
    cases h
  | refused r =>
    rw [hs] at h
    cases h

/-- Two runs, one after the other. -/
theorem run_add (M : Host.Core) (n : Nat) :
    ∀ (m : Nat) (s u : M.State), M.run m s = .next u → M.run (m + n) s = M.run n u := by
  intro m
  induction m with
  | zero =>
    intro s u h
    rw [Host.Core.run] at h
    cases h
    rw [Nat.zero_add]
  | succ m ih =>
    intro s u h
    obtain ⟨v, hv, hu⟩ := run_of_succ M m s u h
    rw [Nat.succ_add, run_of_next M _ s v hv]
    exact ih v u hu

/-- The same three for the core, in the model's own names. -/
theorem core_run_zero (s : State) : Sys2Proof.core.run 0 s = .next s := Host.Core.run.eq_1 ..

theorem core_run_of_next (n : Nat) (s u : State) (h : step s = .next u) :
    Sys2Proof.core.run (n + 1) s = Sys2Proof.core.run n u := run_of_next Sys2Proof.core n s u h

theorem core_run_of_succ (n : Nat) (s t : State) (h : Sys2Proof.core.run (n + 1) s = .next t) :
    ∃ u, step s = .next u ∧ Sys2Proof.core.run n u = .next t := run_of_succ Sys2Proof.core n s t h

end Sys2Proof.Machine
end

