-- ==== Sys2Proof/Tests/Slice0.lean ====
section
/-! SUPPORT. Tests. Every expected value is written out from the spec: the words from the opcode map (spec/30_encoding.md R66),
the effects from the vectors of spec/95_test_vectors.md, named by their ids (S, K, M, A, W, Y, F, E, P), or from the examples
and corner cases of the rule cited. Then the witnesses: for each obligation with hypotheses, states and operands that meet
them, at the boundary of each clause. -/

namespace Sys2Proof.Tests

open Sys2Proof.Machine

/-! ## Helpers -/

/-- The state a step answers with, if it does. -/
def nextOf : Result → Option State
  | .next s => some s
  | .fault _ => none
  | .refused _ => none

/-- The launch state with one word at 0x200, as spec/95_test_vectors.md starts each vector. -/
def fetching (w : Nat) : State := State.reset.withFetchWord 16 w

/-- What one step leaves, as far as `f` looks at it. -/
def after {α : Type} (s : State) (f : State → α) : Option α := (nextOf (step s)).map f

/-- Memory with one byte changed. -/
def poke (s : State) (a : Nat) (b : Byte) : State := s.setMem (s.mem.write a b)

/-- A result that has a next state has one. -/
theorem nextOf_isSome (r : Result) (h : (nextOf r).isSome = true) : ∃ t, r = .next t := by
  cases r with
  | next t => exact ⟨t, rfl⟩
  | fault e => cases e
  | refused e => cases h

/-! ## WellFormed -/

/-- R66 row 3: the two words that are CLS and RET are no SYS. -/
theorem test_wellFormed_refuses_sys_0E0 : (Instr.sys 0x0E0).wellFormed = false := by decide

/-- R66 row 3. -/
theorem test_wellFormed_refuses_sys_0EE : (Instr.sys 0x0EE).wellFormed = false := by decide

/-- R101: "0x00E1 to 0x00ED, 0x00EF" are SYS. -/
theorem test_wellFormed_accepts_sys : ∀ n : BitVec 4, n ≠ 0x0 → n ≠ 0xE → (Instr.sys (0x0E#8 ++ n)).wellFormed = true := by
  decide

/-! ## Decode: every row of R66, its word written out nibble by nibble -/

/-- Rows 1 to 5 (formats Z and A). -/
theorem test_decode_rows_1_to_5 :
    decodeTableWord 16 0x00E0 = some .cls ∧ decodeTableWord 16 0x00EE = some .ret ∧
    decodeTableWord 16 0x0ABC = some (.sys 0xABC) ∧ decodeTableWord 16 0x1204 = some (.jp 0x204) ∧
    decodeTableWord 16 0x2FFF = some (.call 0xFFF) := by decide

/-- Rows 6 to 10. -/
theorem test_decode_rows_6_to_10 :
    decodeTableWord 16 0x3100 = some (.seByte 1 0x00) ∧ decodeTableWord 16 0x4210 = some (.sneByte 2 0x10) ∧
    decodeTableWord 16 0x5340 = some (.seReg 3 4) ∧ decodeTableWord 16 0x6A3E = some (.ldByte 10 0x3E) ∧
    decodeTableWord 16 0x71FF = some (.addByte 1 0xFF) := by decide

/-- Rows 11 to 15. -/
theorem test_decode_rows_11_to_15 :
    decodeTableWord 16 0x8CF0 = some (.ldReg 12 15) ∧ decodeTableWord 16 0x8121 = some (.or 1 2) ∧
    decodeTableWord 16 0x8122 = some (.and 1 2) ∧ decodeTableWord 16 0x8123 = some (.xor 1 2) ∧
    decodeTableWord 16 0x8344 = some (.addReg 3 4) := by decide

/-- Rows 16 to 20. -/
theorem test_decode_rows_16_to_20 :
    decodeTableWord 16 0x8235 = some (.sub 2 3) ∧ decodeTableWord 16 0x8406 = some (.shr 4 0) ∧
    decodeTableWord 16 0x8237 = some (.subn 2 3) ∧ decodeTableWord 16 0x84AE = some (.shl 4 10) ∧
    decodeTableWord 16 0x9340 = some (.sneReg 3 4) := by decide

/-- Rows 21 to 26. -/
theorem test_decode_rows_21_to_26 :
    decodeTableWord 16 0xA300 = some (.ldI 0x300) ∧ decodeTableWord 16 0xBFFF = some (.jpV0 0xFFF) ∧
    decodeTableWord 16 0xC30F = some (.rnd 3 0x0F) ∧ decodeTableWord 16 0xDAB5 = some (.drw 10 11 5) ∧
    decodeTableWord 16 0xE59E = some (.skp 5) ∧ decodeTableWord 16 0xE5A1 = some (.sknp 5) := by decide

/-- Rows 27 to 31. -/
theorem test_decode_rows_27_to_31 :
    decodeTableWord 16 0xF207 = some (.ldVxDt 2) ∧ decodeTableWord 16 0xF10A = some (.ldVxK 1) ∧
    decodeTableWord 16 0xF115 = some (.ldDtVx 1) ∧ decodeTableWord 16 0xF318 = some (.ldStVx 3) ∧
    decodeTableWord 16 0xF21E = some (.addI 2) := by decide

/-- Rows 32 to 35. -/
theorem test_decode_rows_32_to_35 :
    decodeTableWord 16 0xF029 = some (.ldF 0) ∧ decodeTableWord 16 0xF033 = some (.ldB 0) ∧
    decodeTableWord 16 0xF155 = some (.storeRegs 1) ∧ decodeTableWord 16 0xF265 = some (.loadRegs 2) := by decide

/-- R68, one word of each group, by name; R60, a string too short. -/
theorem test_decode_rejects_by_name :
    decode 0x5011 = .error .group5 ∧ decode 0x8008 = .error .group8 ∧ decode 0x9001 = .error .group9 ∧
    decode 0xE000 = .error .groupE ∧ decode 0xF1FF = .error .groupF ∧ decodeBytes [0x12] = .error .truncated := by decide

/-- R60, R75: the byte at the lower address is the high one, and the rest of the string is left. -/
theorem test_bytes_are_big_endian :
    encodeBytes (.addReg 3 4) = [0x83, 0x44] ∧ decodeBytes [0x83, 0x44, 0xFF] = .ok (.addReg 3 4, [0xFF]) := by decide

/-! ## Control flow (spec/95_test_vectors.md 2.1) -/

/-- K1. -/
theorem test_sys_halts : after (fetching 0x0000) (fun t => (t.mode, t.pc)) =
    some (.halted .unrecognizedInstruction, 0x200) := by decide

/-- K4. -/
theorem test_ret_underflow : after (fetching 0x00EE) (fun t => (t.mode, t.pc)) = some (.halted .stackUnderflow, 0x200) := by
  decide

/-- K5. -/
theorem test_ret_pops : after (((fetching 0x00EE).setSp 2).setStackEntry 0 0x202 |>.setStackEntry 1 0x345)
    (fun t => (t.pc, t.sp, t.stackEntry 0)) = some (0x345, 1, 0x202) := by decide

/-- K6. -/
theorem test_jp : after (fetching 0x1FFF) (fun t => (t.pc, t.mode)) = some (0xFFF, .running) := by decide

/-- K9. -/
theorem test_call : after (fetching 0x2FFF) (fun t => (t.stackEntry 0, t.sp, t.pc)) = some (0x202, 1, 0xFFF) := by decide

/-- K10, the 17th Step. -/
theorem test_call_overflow : after ((fetching 0x2200).setSp 16) (fun t => (t.mode, t.sp, t.pc)) =
    some (.halted .stackOverflow, 16, 0x200) := by decide

/-- K11, K12. -/
theorem test_se_byte : after ((fetching 0x3012).setV 0 0x12) State.pc = some 0x204 ∧
    after ((fetching 0x3012).setV 0 0x13) State.pc = some 0x202 := by decide

/-- K13, K14. -/
theorem test_sne_byte : after ((fetching 0x4012).setV 0 0x12) State.pc = some 0x202 ∧
    after ((fetching 0x4012).setV 0 0x13) State.pc = some 0x204 := by decide

/-- K15, K16. -/
theorem test_se_reg : after (((fetching 0x5010).setV 0 4).setV 1 4) State.pc = some 0x204 ∧
    after (((fetching 0x5010).setV 0 4).setV 1 5) State.pc = some 0x202 := by decide

/-- K19, K20. -/
theorem test_sne_reg : after (((fetching 0x9010).setV 0 4).setV 1 4) State.pc = some 0x202 ∧
    after (((fetching 0x9010).setV 0 4).setV 1 5) State.pc = some 0x204 := by decide

/-- K23: not truncated to 12 bits. -/
theorem test_jp_v0 : after ((fetching 0xBFFF).setV 0 0xFF) State.pc = some 0x10FE := by decide

/-- K18. -/
theorem test_unrecognized : after (fetching 0x5011) (fun t => (t.mode, t.pc)) =
    some (.halted .unrecognizedInstruction, 0x200) := by decide

/-! ## Immediate, index, random (2.2) -/

/-- M2. -/
theorem test_ld_byte : after ((fetching 0x6F07).setV 15 1) (fun t => (t.getV 15, t.pc)) = some (0x07, 0x202) := by decide

/-- M3. -/
theorem test_add_byte_wraps : after ((fetching 0x7001).setV 0 0xFF) (fun t => (t.getV 0, t.getV 15)) =
    some (0x00, 0x00) := by decide

/-- M4. -/
theorem test_add_byte_keeps_flag : after (((fetching 0x70FF).setV 0 0x01).setV 15 0x55) (fun t => (t.getV 0, t.getV 15)) =
    some (0x00, 0x55) := by decide

/-- M7. -/
theorem test_ld_i : after ((fetching 0xAFFF).setI 0xF000) State.i = some 0x0FFF := by decide

/-- R123: V[x] <- r AND kk, r being the value of the port at this draw. -/
theorem test_rnd : after ((fetching 0xC10F).setDraws 3) (fun t => (t.getV 1, t.draws)) =
    some (Config.rndByte 3 &&& 0x0F, 4) := rfl

/-! ## ALU (2.3) -/

/-- A5. -/
theorem test_add_carry : after (((fetching 0x8014).setV 0 0xFF).setV 1 0x01) (fun t => (t.getV 0, t.getV 15)) =
    some (0x00, 1) := by decide

/-- A1. -/
theorem test_add_flag_register : after (((fetching 0x8F14).setV 15 0xF0).setV 1 0x20) (fun t => (t.getV 15, t.getV 1)) =
    some (0x10, 0x20) := by decide

/-- A9. -/
theorem test_sub_borrow : after (((fetching 0x8015).setV 0 0).setV 1 1) (fun t => (t.getV 0, t.getV 15)) =
    some (0xFF, 0) := by decide

/-- A12. -/
theorem test_sub_flag_is_operand : after (((fetching 0x81F5).setV 1 10).setV 15 5) (fun t => (t.getV 1, t.getV 15)) =
    some (5, 1) := by decide

/-- A14. -/
theorem test_subn : after (((fetching 0x8017).setV 0 3).setV 1 10) (fun t => (t.getV 0, t.getV 1, t.getV 15)) =
    some (7, 10, 1) := by decide

/-- A15. -/
theorem test_subn_flag_register : after (((fetching 0x8F17).setV 15 5).setV 1 10) (fun t => t.getV 15) = some 5 := by decide

/-- A16. -/
theorem test_shr : after (((fetching 0x8036).setV 0 0x05).setV 3 0xFF) (fun t => (t.getV 0, t.getV 3, t.getV 15)) =
    some (0x02, 0xFF, 1) := by decide

/-- A18. -/
theorem test_shr_flag_register : after ((fetching 0x8F06).setV 15 0x03) (fun t => t.getV 15) = some 0x01 := by decide

/-- A19. -/
theorem test_shl : after ((fetching 0x800E).setV 0 0xFF) (fun t => (t.getV 0, t.getV 15)) = some (0xFE, 1) := by decide

/-- A20. -/
theorem test_shl_flag_register : after ((fetching 0x8F0E).setV 15 0x81) (fun t => t.getV 15) = some 0x02 := by decide

/-- A21. -/
theorem test_or : after ((((fetching 0x8011).setV 0 0xF0).setV 1 0x0F).setV 15 0x77) (fun t => (t.getV 0, t.getV 15)) =
    some (0xFF, 0x77) := by decide

/-- A22. -/
theorem test_and : after ((((fetching 0x8012).setV 0 0xF0).setV 1 0x3C).setV 15 0x77) (fun t => (t.getV 0, t.getV 15)) =
    some (0x30, 0x77) := by decide

/-- A23. -/
theorem test_xor : after ((((fetching 0x8013).setV 0 0xF0).setV 1 0x3C).setV 15 0x77) (fun t => (t.getV 0, t.getV 15)) =
    some (0xCC, 0x77) := by decide

/-- A25. -/
theorem test_ld_reg : after (((fetching 0x8010).setV 0 1).setV 1 0x99) (fun t => (t.getV 0, t.getV 1)) =
    some (0x99, 0x99) := by decide

/-! ## Display (2.4) -/

/-- The pixels that are ON in one row, by column. -/
def rowOn (row : Fin 32) (t : State) : List Nat := ((List.finRange 64).filter fun c => t.pixel row c).map Fin.val

/-- W1. -/
theorem test_drw_wraps_columns : after ((poke (fetching 0xD011) 0x300 0xFF).setI 0x300 |>.setV 0 60)
    (fun t => (rowOn 0 t, t.getV 15, t.pc)) = some ([0, 1, 2, 3, 60, 61, 62, 63], 0, 0x202) := by decide +kernel

/-- W10. -/
theorem test_drw_collides : after (((poke (fetching 0xD011) 0x300 0x81).setI 0x300).setFb (Framebuffer.clear.setPixel 0 0 true))
    (fun t => (rowOn 0 t, t.getV 15)) = some ([7], 1) := by decide +kernel

/-- W11. -/
theorem test_cls : after (((fetching 0x00E0).setFb (Framebuffer.clear.setPixel 31 63 true)).setV 15 1)
    (fun t => (rowOn 31 t, t.getV 15)) = some ([], 1) := by decide +kernel

/-! ## Keypad (2.5) -/

/-- Y3. -/
theorem test_skp : after (((fetching 0xE59E).setV 5 0x0A).setKeys 0x0400) State.pc = some 0x204 := by decide

/-- Y5. -/
theorem test_skp_range : after ((fetching 0xE09E).setV 0 16) (fun t => (t.mode, t.pc)) =
    some (.halted .keyIndexOutOfRange, 0x200) := by decide

/-- Y4. -/
theorem test_sknp : after (((fetching 0xE5A1).setV 5 0x0A).setKeys 0x0400) State.pc = some 0x202 := by decide

/-- Y6. -/
theorem test_sknp_range : after ((fetching 0xE0A1).setV 0 0xFF) State.mode = some (.halted .keyIndexOutOfRange) := by decide

/-- Y8, Step 1. -/
theorem test_ld_key_waits : after ((fetching 0xF10A).setV 1 9) (fun t => (t.mode, t.pc, t.getV 1)) =
    some (.awaitingKey 1, 0x202, 9) := by decide

/-! ## Timers, index, font, digits, register block (2.6) -/

/-- R170's example. -/
theorem test_ld_vx_dt : after ((fetching 0xF207).setDt 0x1E) (fun t => (t.getV 2, t.dt)) = some (0x1E, 0x1E) := by decide

/-- R171's example. -/
theorem test_ld_dt_vx : after ((fetching 0xF115).setV 1 3) (fun t => (t.dt, t.st)) = some (3, 0) := by decide

/-- R172's example. -/
theorem test_ld_st_vx : after ((fetching 0xF318).setV 3 0x3C) (fun t => (t.st, t.dt, t.tone)) = some (0x3C, 0, true) := by
  decide

/-- F3. -/
theorem test_add_i : after (((fetching 0xF01E).setV 0 1).setI 0x0FFF) (fun t => (t.i, t.getV 15)) = some (0x1000, 0) := by
  decide

/-- F4. -/
theorem test_add_i_wraps : after (((fetching 0xF01E).setV 0 1).setI 0xFFFF) State.i = some 0x0000 := by decide

/-- F6. -/
theorem test_ld_f : after ((fetching 0xF029).setV 0 0x0F) State.i = some 0x004B := by decide

/-- F7. -/
theorem test_ld_f_not_masked : after ((fetching 0xF029).setV 0 0xFF) State.i = some 0x04FB := by decide

/-- F9. -/
theorem test_ld_b : after (((fetching 0xF033).setV 0 254).setI 0x300) (fun t => t.mem.readBytes 0x300 3) =
    some [2, 5, 4] := by decide

/-- F11. -/
theorem test_ld_b_range : after (((fetching 0xF033).setV 0 7).setI 4094) (fun t => (t.mode, t.mem.readBytes 4094 2)) =
    some (.halted .memoryOutOfRange, [0, 0]) := by decide

/-- R176's example. -/
theorem test_store_regs : after ((((fetching 0xF155).setV 0 0xAA).setV 1 0xBB).setI 0x400)
    (fun t => (t.mem.readBytes 0x400 3, t.i)) = some ([0xAA, 0xBB, 0x00], 0x400) := by decide

/-- F13: not even the byte in range is written. -/
theorem test_store_regs_range : after ((((fetching 0xF155).setV 0 1).setV 1 2).setI 4095)
    (fun t => (t.mode, t.mem.read 4095)) = some (.halted .memoryOutOfRange, 0) := by decide

/-- F16. -/
theorem test_load_regs : after (((fetching 0xF165).setI 0x200).setV 2 7) (fun t => (t.getV 0, t.getV 1, t.getV 2)) =
    some (0xF1, 0x65, 7) := by decide

/-- F17. -/
theorem test_load_regs_range : after ((fetching 0xF065).setI 0x1000) State.mode = some (.halted .memoryOutOfRange) := by decide

/-! ## Fetch and events (2.7) -/

/-- E1: the last legal fetch address. -/
theorem test_fetch_last : after ((poke State.reset 0xFFE 0x12).setPc 0xFFE) (fun t => (t.pc, t.mode)) =
    some (0x200, .running) := by decide

/-- E2. -/
theorem test_fetch_above : after (State.reset.setPc 0xFFF) (fun t => (t.mode, t.pc)) =
    some (.halted .memoryOutOfRange, 0xFFF) := by decide

/-- F2 after its Step: the Tick. -/
theorem test_tick_floors : after ((State.reset.setSt 1).setInputs [.tick]) (fun t => (t.st, t.dt, t.tone)) =
    some (0, 0, false) := by decide

/-- E4: Halted ignores the Tick. -/
theorem test_tick_halted : after (((State.reset.setDt 5).setMode (.halted .unrecognizedInstruction)).setInputs [.tick]) State.dt =
    some 5 := by decide

/-- Y8, its last KeyPoll: keys 3 and 7. -/
theorem test_keypoll_resolves : after ((State.reset.setMode (.awaitingKey 1)).setInputs [.keyPoll 0x0088])
    (fun t => (t.getV 1, t.mode, t.keys)) = some (3, .running, 0x0088) := by decide

/-- Y9: a held key does not end the wait. -/
theorem test_keypoll_held : after (((State.reset.setMode (.awaitingKey 1)).setKeys 0x0020).setInputs [.keyPoll 0x0020])
    State.mode = some (.awaitingKey 1) := by decide

/-- E5. -/
theorem test_keypoll_halted : after ((State.reset.setMode (.halted .unrecognizedInstruction)).setInputs [.keyPoll 0xFFFF])
    State.keys = some 0 := by decide

/-- E6: memory is the font and zeros again, the program gone. -/
theorem test_reset_event : after ((((fetching 0x1200).setMode (.halted .stackUnderflow)).setPc 0x300).setInputs [.reset])
    (fun t => (t.mode, t.pc, t.mem.readBytes 0x200 2, t.mem.readBytes 0x4B 6)) =
    some (.running, 0x200, [0, 0], [0xF0, 0x80, 0xF0, 0x80, 0x80, 0x00]) := by decide

/-- E7: KeyPoll, Step, Tick. -/
theorem test_presented_together : presentedTogether (some 1) true true = [.keyPoll 1, .step, .tick] := by decide

/-- R245 and R93: one byte through the loader port. -/
theorem test_loader_port : after (State.reset.setInputs [.loaderWrite 0xFFF 0xAB])
    (fun t => (t.mem.read 0xFFF, t.pc, t.loadPhase)) = some (0xAB, 0x200, true) := by decide

/-- R94: the model refuses the port after the first Step. -/
theorem test_loader_port_closed : nextOf (step ((State.reset.setLoadPhase false).setInputs [.loaderWrite 0xFFF 0xAB])) =
    none := by decide

/-- R222 to R224. -/
theorem test_outputs : (State.reset.setMode (.awaitingKey 9)).awaitReg = 9 ∧
    (State.reset.setMode (.halted .keyIndexOutOfRange)).causeOut = 5 ∧
    (State.reset.setSt 1).tone = true ∧ State.reset.isRunning = true := by decide

/-! ## Witnesses: the hypotheses of each obligation, met -/

/-- The core waiting for a key into V[15]. -/
def waiting : State := State.reset.setMode (.awaitingKey 15)

/-- The core halted after its load phase. -/
def stopped : State := (State.reset.setMode (.halted .stackUnderflow)).setLoadPhase false

/-- DecodeOfEncode. -/
theorem witness_DecodeOfEncode : (Instr.sys 0x0EF).wellFormed = true ∧ (Instr.drw 15 15 15).wellFormed = true := by decide

/-- EncodeOfDecode: an ignored y of 15, and the last word. -/
theorem witness_EncodeOfDecode : decode 0x8FF6 = .ok (.shr 15 15) ∧ decode 0xFF65 = .ok (.loadRegs 15) := by decide

/-- StepRunsDecodedInstruction, at the last legal fetch address (E1). -/
theorem witness_StepRunsDecodedInstruction : ∃ (s : State) (i : Instr), s.nextInput = .step ∧ s.mode = .running ∧
    s.pc.toNat = 4094 ∧ decode (s.mem.read s.pc.toNat ++ s.mem.read (s.pc.toNat + 1)) = .ok i :=
  ⟨(poke State.reset 0xFFE 0x12).setPc 0xFFE, .jp 0x200, by decide⟩

/-- FetchAboveMemoryHalts, at the first address that cannot be fetched. -/
theorem witness_FetchAboveMemoryHalts : ∃ s : State, s.nextInput = .step ∧ s.mode = .running ∧ s.pc.toNat = 4095 :=
  ⟨State.reset.setPc 0xFFF, by decide⟩

/-- UnrecognizedWordHalts, an unlisted word. -/
theorem witness_UnrecognizedWordHalts : ∃ (s : State) (w : Word), s.nextInput = .step ∧ s.mode = .running ∧
    s.pc.toNat ≤ 4094 ∧ w = s.mem.read s.pc.toNat ++ s.mem.read (s.pc.toNat + 1) ∧ decode w = .error .group5 :=
  ⟨fetching 0x5011, 0x5011, by decide⟩

/-- UnrecognizedWordHalts, the reserved row. -/
theorem witness_UnrecognizedWordHalts_sys : ∃ (s : State) (w : Word), s.nextInput = .step ∧ s.mode = .running ∧
    s.pc.toNat ≤ 4094 ∧ w = s.mem.read s.pc.toNat ++ s.mem.read (s.pc.toNat + 1) ∧ decode w = .ok (.sys 0xFFF) :=
  ⟨fetching 0x0FFF, 0x0FFF, by decide⟩

/-- StepOutsideRunningChangesNothing, in both modes. -/
theorem witness_StepOutsideRunningChangesNothing :
    (waiting.nextInput = .step ∧ waiting.mode ≠ .running) ∧ stopped.nextInput = .step ∧ stopped.mode ≠ .running := by decide

/-- HaltedIsFrozenUntilReset: three events that are not Reset. -/
theorem witness_HaltedIsFrozenUntilReset : ∃ s t : State, s.mode = .halted .stackUnderflow ∧ s.loadPhase = false ∧
    Input.reset ∉ s.inputs ∧ Sys2Proof.core.run 3 s = .next t :=
  have h : (nextOf (Sys2Proof.core.run 3 (stopped.setInputs [.step, .tick, .keyPoll 0xFFFF]))).isSome = true := by decide
  have ⟨t, ht⟩ := nextOf_isSome _ h
  ⟨stopped.setInputs [.step, .tick, .keyPoll 0xFFFF], t, rfl, rfl, by decide, ht⟩

/-- ModeChangesOnlyAsListed: each transition of R26 is taken by some step. -/
theorem witness_ModeChangesOnlyAsListed :
    after (fetching 0xFF0A) State.mode = some (.awaitingKey 15) ∧
    after (fetching 0x00EE) State.mode = some (.halted .stackUnderflow) ∧
    after (waiting.setInputs [.keyPoll 0x8000]) State.mode = some .running ∧
    after (waiting.setInputs [.keyPoll 0x0000]) State.mode = some (.awaitingKey 15) ∧
    after (stopped.setInputs [.tick]) State.mode = some (.halted .stackUnderflow) ∧
    after (stopped.setInputs [.reset]) State.mode = some .running := by decide

/-- FatalStepIsPrecise. -/
theorem witness_FatalStepIsPrecise : ∃ s t : State, s.nextInput = .step ∧ s.mode = .running ∧ step s = .next t ∧
    t.mode = .halted .stackUnderflow :=
  ⟨fetching 0x00EE, _, rfl, rfl, rfl, rfl⟩

/-- FailedCheckRaisesItsCause: every check just failing. -/
theorem witness_FailedCheckRaisesItsCause :
    ¬ Executes .ret State.reset ∧ ¬ Executes (.call 0) (State.reset.setSp 16) ∧
    ¬ Executes (.drw 0 0 1) (State.reset.setI 4096) ∧ ¬ Executes (.drw 0 0 15) (State.reset.setI 4082) ∧
    ¬ Executes (.ldB 0) (State.reset.setI 4094) ∧ ¬ Executes (.storeRegs 15) (State.reset.setI 4081) ∧
    ¬ Executes (.loadRegs 0) (State.reset.setI 4096) ∧ ¬ Executes (.skp 0) (State.reset.setV 0 16) ∧
    ¬ Executes (.sknp 0) (State.reset.setV 0 16) ∧ ¬ Executes (.sys 0) State.reset := by
  unfold Executes
  decide

/-- PassedCheckCompletes and ProgramCounterOutcome: every check just passing, and DRW of no row at any I. -/
theorem witness_PassedCheckCompletes :
    Executes .ret (State.reset.setSp 1) ∧ Executes (.call 0) (State.reset.setSp 15) ∧
    Executes (.drw 0 0 1) (State.reset.setI 4095) ∧ Executes (.drw 0 0 15) (State.reset.setI 4081) ∧
    Executes (.drw 0 0 0) (State.reset.setI 0xFFFF) ∧ Executes (.ldB 0) (State.reset.setI 4093) ∧
    Executes (.storeRegs 15) (State.reset.setI 4080) ∧ Executes (.loadRegs 0) (State.reset.setI 4095) ∧
    Executes (.skp 0) (State.reset.setV 0 15) ∧ Executes (.sknp 0) (State.reset.setV 0 15) ∧ Executes .cls State.reset := by
  unfold Executes
  decide

/-- ProgramCounterOutcome, its clauses on RET and on a key number, and its other parts. -/
theorem witness_ProgramCounterOutcome :
    (State.reset.nextInput = .step ∧ State.reset.mode = .running ∧
      after State.reset State.mode = some (.halted .unrecognizedInstruction)) ∧
    (∃ t, exec .ret (State.reset.setSp 16) = .next t ∧ (15 : Fin 16).val + 1 = (State.reset.setSp 16).sp.val) ∧
    (∃ t, exec (.skp 0) (State.reset.setV 0 15) = .next t ∧ (15 : Reg).val = ((State.reset.setV 0 15).getV 0).toNat) ∧
    (∃ t, exec (.skp 0) (State.reset.setV 0 16) = .next t) ∧
    (State.reset.setInputs [.tick]).nextInput = .tick ∧ (State.reset.setInputs [.keyPoll 1]).nextInput = .keyPoll 1 :=
  ⟨by decide, ⟨_, rfl, by decide⟩, ⟨_, rfl, by decide⟩, ⟨_, rfl⟩, rfl, rfl⟩

/-- EveryStepKeepsMemoryCanonical, on a step that stores over a font byte and one that is not listed. -/
theorem witness_EveryStepKeepsMemoryCanonical : ∃ s t : State, s.memoryCanonical ∧ s.mem = [(512, 0xF1), (513, 0x55)] ∧
    step s = .next t ∧ t.mem = [(78, 0x01), (79, 0x02), (512, 0xF1), (513, 0x55)] :=
  ⟨(((fetching 0xF155).setV 0 1).setV 1 2).setI 78, _, by unfold State.memoryCanonical; decide, by decide, rfl, by decide⟩

/-- EveryStepKeepsControlBounded, at both bounds. -/
theorem witness_EveryStepKeepsControlBounded : ∃ s : State, s.controlBounded ∧ s.pc.toNat = 0x10FE ∧ s.sp = 2 ∧
    s.stackEntry 0 = 2 ∧ s.stackEntry 1 = 4096 ∧ (nextOf (step s)).isSome = true :=
  ⟨(((State.reset.setPc 0x10FE).setSp 2).setStackEntry 0 2).setStackEntry 1 4096, by
    unfold State.controlBounded
    decide⟩

/-- EveryStepKeepsFreshWhileLoading, with a byte loaded and a key held. -/
theorem witness_EveryStepKeepsFreshWhileLoading : ∃ s t : State, s.loadPhase = true ∧ s.freshWhileLoading ∧
    step s = .next t ∧ t.loadPhase = true :=
  ⟨((poke State.reset 0x200 0x12).setKeys 0xFFFF).setInputs [.loaderWrite 0x201 0x34], _, rfl, fun _ => rfl, rfl, rfl⟩

/-- RegistersChangeOnlyByTheirWriters: a register changes by an instruction, by a KeyPoll, by Reset. -/
theorem witness_RegistersChangeOnlyByTheirWriters :
    after (fetching 0x6F07) (fun t => t.getV 15) = some 7 ∧ (fetching 0x6F07).getV 15 = 0 ∧
    after (waiting.setInputs [.keyPoll 0x8000]) (fun t => t.getV 15) = some 15 ∧ waiting.getV 15 = 0 ∧
    after ((State.reset.setV 0 1).setInputs [.reset]) (fun t => t.getV 0) = some 0 := by decide

/-- MemoryChangesOnlyByItsWriters: the highest byte changes by an instruction, and one by the loader port. -/
theorem witness_MemoryChangesOnlyByItsWriters :
    (((fetching 0xF055).setV 0 1).setI 4095).memoryCanonical ∧
    after (((fetching 0xF055).setV 0 1).setI 4095) (fun t => t.mem.read 4095) = some 1 ∧
    after (State.reset.setInputs [.loaderWrite 0 0xAB]) (fun t => t.mem.read 0) = some 0xAB ∧
    after ((poke State.reset 0 0xAB).setInputs [.reset]) (fun t => t.mem.read 0) = some 0xF0 := by
  unfold State.memoryCanonical
  decide

/-- PixelsChangeOnlyByTheirWriters: a corner pixel changes by DRW and by CLS. -/
theorem witness_PixelsChangeOnlyByTheirWriters :
    after ((((fetching 0xD011).setV 0 63).setV 1 31)) (fun t => t.pixel 31 63) = some true ∧
    after ((fetching 0x00E0).setFb (Framebuffer.clear.setPixel 31 63 true)) (fun t => t.pixel 31 63) = some false := by
  decide +kernel

/-- TimersAndKeysChangeOnlyByTheirWriters: each changes. -/
theorem witness_TimersAndKeysChangeOnlyByTheirWriters :
    after ((fetching 0xF015).setV 0 1) State.dt = some 1 ∧ after ((fetching 0xF018).setV 0 1) State.st = some 1 ∧
    after (((State.reset.setDt 1).setSt 1).setInputs [.tick]) (fun t => (t.dt, t.st)) = some (0, 0) ∧
    after (State.reset.setInputs [.keyPoll 1]) State.keys = some 1 := by decide

/-- SoundTimerInfluencesNothing: two steps, one of them a Tick. -/
theorem witness_SoundTimerInfluencesNothing : ∃ s t : State, s.st ≠ 0 ∧ Sys2Proof.core.run 2 s = .next t :=
  have h : (nextOf (Sys2Proof.core.run 2 (((fetching 0x1200).setSt 1).setInputs [.step, .tick]))).isSome = true := by decide
  have ⟨t, ht⟩ := nextOf_isSome _ h
  ⟨((fetching 0x1200).setSt 1).setInputs [.step, .tick], t, by decide, ht⟩

/-- DeadStackEntriesAreUnobservable: one valid entry, another dead entry that differs, and a RET. -/
theorem witness_DeadStackEntriesAreUnobservable : ∃ s s' t : State, s ≠ s' ∧ s.sameButDeadEntries s' ∧
    Sys2Proof.core.run 1 s = .next t := by
  have h : (nextOf (Sys2Proof.core.run 1 ((fetching 0x00EE).setSp 1))).isSome = true := by decide
  obtain ⟨t, ht⟩ := nextOf_isSome _ h
  refine ⟨(fetching 0x00EE).setSp 1, ((fetching 0x00EE).setSp 1).setStackEntry 1 0x345, t, ?_, ⟨by decide, rfl⟩, ht⟩
  intro e
  exact absurd (congrArg (fun s => s.stackEntry 1) e) (by decide)

/-- ResetEventLeaves: in Halted too. -/
theorem witness_ResetEventLeaves : (stopped.setInputs [.reset]).nextInput = .reset := by decide

/-- LaunchPlacesProgram and LoaderPortReachesLaunchState: the longest program, its last byte, the bytes around it. -/
theorem witness_LaunchPlacesProgram : ∃ prog : List Byte, prog.length = 3584 ∧ prog.length ≤ 3584 ∧ 3583 < prog.length ∧
    ¬ (0x200 ≤ 0x1FF ∧ 0x1FF < 0x200 + prog.length) :=
  have h : (List.replicate 3584 (0x12 : Byte)).length = 3584 := List.length_replicate
  ⟨List.replicate 3584 0x12, h, by omega, by omega, by omega⟩

/-- LoadErrorAboveLimit: the shortest program that is too long (S9). -/
theorem witness_LoadErrorAboveLimit : ∃ prog : List Byte, prog.length = 3585 ∧ 3584 < prog.length :=
  have h : (List.replicate 3585 (0x12 : Byte)).length = 3585 := List.length_replicate
  ⟨List.replicate 3585 0x12, h, by omega⟩

/-- LoaderPortReachesLaunchState: the empty program. -/
theorem witness_LoaderPortReachesLaunchState : ([] : List Byte).length ≤ 3584 := by decide

/-- LoaderPortClosesAtFirstStep: each clause. -/
theorem witness_LoaderPortClosesAtFirstStep :
    (State.reset.nextInput = .step ∧ (nextOf (step State.reset)).isSome = true) ∧
    ((stopped.setInputs [.tick]).loadPhase = false ∧ (stopped.setInputs [.tick]).nextInput ≠ .reset ∧
      (nextOf (step (stopped.setInputs [.tick]))).isSome = true) ∧
    (stopped.setInputs [.loaderWrite 0xFFF 1]).loadPhase = false ∧
    (stopped.setInputs [.loaderWrite 0xFFF 1]).nextInput = .loaderWrite 0xFFF 1 := by decide

/-- TicksCountBothTimersDown: more Ticks than the timer counts, while waiting. -/
theorem witness_TicksCountBothTimersDown : ∃ s : State, (∀ c, s.mode ≠ .halted c) ∧ s.dt = 1 ∧ s.st = 3 ∧
    s.inputs = List.replicate 2 .tick ++ [.step] :=
  ⟨((waiting.setDt 1).setSt 3).setInputs [.tick, .tick, .step], fun _ => nofun, rfl, rfl, rfl⟩

/-- KeyPollReplacesLatchAndResolvesWait: Running; waiting with no new key; waiting with key 15 the lowest new one. -/
theorem witness_KeyPollReplacesLatchAndResolvesWait :
    ((State.reset.setInputs [.keyPoll 1]).inputs = [.keyPoll 1] ∧ State.reset.mode = .running) ∧
    (waiting.mode = .awaitingKey 15 ∧
      ∀ j : Reg, ¬ ((waiting.setKeys 0x0001).key j = false ∧ (0x0001 : BitVec 16).getLsb j = true)) ∧
    ((waiting.setKeys 0x0001).key 15 = false ∧ (0x8001 : BitVec 16).getLsb 15 = true ∧
      ∀ j : Reg, j.val < (15 : Reg).val →
        ¬ ((waiting.setKeys 0x0001).key j = false ∧ (0x8001 : BitVec 16).getLsb j = true)) := by decide

/-- OutputsDecodeState: the last bit, and each mode. -/
theorem witness_OutputsDecodeState : (2047 : Fin 2048).val = (31 : Fin 32).val * 64 + (63 : Fin 64).val ∧
    State.reset.mode = .running ∧ waiting.mode = .awaitingKey 15 ∧ stopped.mode = .halted .stackUnderflow := by decide

/-- RetPopsIntoPc: one entry, all sixteen, none. -/
theorem witness_RetPopsIntoPc : (0 : Fin 16).val + 1 = (State.reset.setSp 1).sp.val ∧
    (15 : Fin 16).val + 1 = (State.reset.setSp 16).sp.val ∧ State.reset.sp.val = 0 := by decide

/-- CallPushesReturnAddress: the sixteenth nested CALL, and the seventeenth. -/
theorem witness_CallPushesReturnAddress : (15 : Fin 16).val = (State.reset.setSp 15).sp.val ∧
    (State.reset.setSp 16).sp.val = 16 := by decide

/-- CallThenRetReturns, on the sixteenth nested CALL. -/
theorem witness_CallThenRetReturns : (State.reset.setSp 15).sp.val < 16 ∧
    ∃ t, exec (.call 0xFFF) (State.reset.setSp 15) = .next t := ⟨by decide, _, rfl⟩

/-- DrwXorsSpriteAndReportsCollision: no row at I = 65535; the last legal address; the first illegal one; a wrapped
coordinate under a 1-bit; one under a 0-bit. -/
theorem witness_DrwXorsSpriteAndReportsCollision :
    ((0 : BitVec 4).toNat = 0 ∨ (State.reset.setI 0xFFFF).i.toNat + (0 : BitVec 4).toNat - 1 ≤ 4095) ∧
    ((1 : BitVec 4).toNat = 0 ∨ (State.reset.setI 4095).i.toNat + (1 : BitVec 4).toNat - 1 ≤ 4095) ∧
    ¬ ((1 : BitVec 4).toNat = 0 ∨ (State.reset.setI 4096).i.toNat + (1 : BitVec 4).toNat - 1 ≤ 4095) ∧
    ((State.reset.setV 0 63).setV 1 31).spriteOn 0 1 5 0 63 ∧ ¬ (State.reset.setV 0 63).spriteOn 0 1 5 0 3 := by
  unfold State.spriteOn
  decide

/-- DrawingTwiceRestores: a sprite whose draw keeps both coordinates, and a sprite of zeros. -/
theorem witness_DrawingTwiceRestores :
    (Executes (.drw 0 1 5) State.reset ∧
      ∃ t, exec (.drw 0 1 5) State.reset = .next t ∧ t.getV 0 = State.reset.getV 0 ∧ t.getV 1 = State.reset.getV 1) ∧
    ∀ r < (15 : BitVec 4).toNat, (State.reset.setI 0x50).mem.read ((State.reset.setI 0x50).i.toNat + r) = 0 := by
  refine ⟨⟨?_, _, rfl, by decide +kernel, by decide +kernel⟩, by decide⟩
  unfold Executes
  decide

/-- KeySkips: key 15, and the first number that is no key. -/
theorem witness_KeySkips : (15 : Reg).val = ((State.reset.setV 0 15).getV 0).toNat ∧
    15 < ((State.reset.setV 0 16).getV 0).toNat := by decide

/-- KeyWaitEndsAtFirstNewPress: a Step, a Tick, the release of a held key, then keys 5 and 7. -/
theorem witness_KeyWaitEndsAtFirstNewPress : ∃ s : State, s.mode = .awaitingKey 15 ∧
    quietLatch s.keys [.step, .tick, .keyPoll 0x0020, .keyPoll 0x0000] = some 0x0000 ∧
    s.inputs = [.step, .tick, .keyPoll 0x0020, .keyPoll 0x0000] ++ .keyPoll 0x00A0 :: [] ∧
    (0x0000 : BitVec 16).getLsb 5 = false ∧ (0x00A0 : BitVec 16).getLsb 5 = true ∧
    ∀ j' : Reg, j'.val < (5 : Reg).val → ¬ ((0x0000 : BitVec 16).getLsb j' = false ∧ (0x00A0 : BitVec 16).getLsb j' = true) :=
  ⟨(waiting.setKeys 0x0020).setInputs [.step, .tick, .keyPoll 0x0020, .keyPoll 0x0000, .keyPoll 0x00A0], by decide⟩

/-- StoreDecimalDigits: the highest legal base, and the next. -/
theorem witness_StoreDecimalDigits : State.reset.memoryCanonical ∧ (State.reset.setI 4093).i.toNat + 2 ≤ 4095 ∧
    4095 < (State.reset.setI 4094).i.toNat + 2 := by
  unfold State.memoryCanonical
  decide

/-- RegisterBlockTransfers: all sixteen registers up to the last byte, and one too many. -/
theorem witness_RegisterBlockTransfers : State.reset.memoryCanonical ∧
    (State.reset.setI 4080).i.toNat + (15 : Reg).val ≤ 4095 ∧ 4095 < (State.reset.setI 4081).i.toNat + (15 : Reg).val := by
  unfold State.memoryCanonical
  decide

/-- StoredBlockLoadsBack, on all sixteen registers at the top of memory. -/
theorem witness_StoredBlockLoadsBack : ∃ s t : State, s.memoryCanonical ∧ Executes (.storeRegs 15) s ∧
    exec (.storeRegs 15) s = .next t := by
  refine ⟨State.reset.setI 4080, _, ?_, ?_, rfl⟩
  · unfold State.memoryCanonical
    decide
  · unfold Executes
    decide

/-- StoredWordIsFetched, at the last address with a whole word. -/
theorem witness_StoredWordIsFetched : ∃ s t : State, s.memoryCanonical ∧ 1 ≤ (1 : Reg).val ∧
    s.i.toNat + (1 : Reg).val ≤ 4095 ∧ exec (.storeRegs 1) s = .next t := by
  refine ⟨State.reset.setI 4094, _, ?_, by decide, by decide, rfl⟩
  unfold State.memoryCanonical
  decide

/-- The clauses of AddByteWrapsWithoutFlag, AddRegWritesSumAndCarry, SubtractionsWriteDifferenceAndNotBorrow and
ShiftsWriteResultAndBitShiftedOut for x other than 15. -/
theorem witness_DestinationIsNotTheFlag : (14 : Reg) ≠ 15 := by decide

end Sys2Proof.Tests
end

/-! # What an instruction writes

One rule for each write of a piece of state (spec/10_state.md R11, R12, R16 to R23), then the completion of every
instruction with its frame and its program counter. -/

namespace Sys2Proof.Machine

theorem next_unique {r : Result} {s t : State} (hs : r = .next s) (ht : r = .next t) : s = t :=
  Host.Outcome.next.inj (hs.symm.trans ht)

/-! ## Bytes outside a write -/

theorem Memory.lookup_place_of_ne (m : Memory) (a : Nat) (b : Byte) (k : Nat) (h : k ≠ a) :
    Memory.lookup k (Memory.place a b m) = Memory.lookup k m := by
  induction m with
  | nil => simp [Memory.place, Memory.lookup, h.symm]
  | cons c rest ih =>
    unfold Memory.place
    split
    · simp [Memory.lookup, h.symm]
    · split
      case isTrue hc => simp [Memory.lookup, hc, h.symm]
      case isFalse => simp [Memory.lookup, ih]

theorem Memory.lookup_drop_of_ne (m : Memory) (a k : Nat) (h : k ≠ a) :
    Memory.lookup k (Memory.drop a m) = Memory.lookup k m := by
  induction m with
  | nil => rfl
  | cons c rest ih =>
    unfold Memory.drop
    split
    case isTrue hc => simp [Memory.lookup, hc, h.symm]
    case isFalse => simp [Memory.lookup, ih]

/-- Unlike `Memory.read_write`, of a list in any form. -/
theorem Memory.read_write_of_ne (m : Memory) (a : Nat) (b : Byte) (k : Nat) (h : k ≠ a) :
    (m.write a b).read k = m.read k := by
  unfold Memory.write
  split
  · split
    · simp only [Memory.read, Memory.lookup_drop_of_ne m a k h]
    · simp only [Memory.read, Memory.lookup_place_of_ne m a b k h]
  · rfl

/-- Unlike `Memory.read_writeBytes`, of a list in any form and without the bound on the block. -/
theorem Memory.read_writeBytes_outside (bs : List Byte) (m : Memory) (a k : Nat) (h : ¬ (a ≤ k ∧ k < a + bs.length)) :
    (m.writeBytes a bs).read k = m.read k := by
  induction bs generalizing m a with
  | nil => rfl
  | cons b bs ih =>
    rw [List.length_cons] at h
    rw [Memory.writeBytes, ih _ _ (by omega), Memory.read_write_of_ne m a b k (by omega)]

/-! ## Frame rules, one for each write -/

section FrameRules

variable {i : Instr} {s t : State}

theorem Frame.refl (i : Instr) (s : State) : Frame i s s where
  v _ _ := rfl
  index _ := rfl
  stack _ _ := rfl
  sp _ := rfl
  dt _ := rfl
  st _ := rfl
  mem _ _ := rfl
  pixels _ _ _ := rfl
  keys := rfl
  mode _ := rfl
  draws _ := rfl
  host := ⟨rfl, rfl⟩

/-- No frame speaks of pc. -/
theorem Frame.setPc (h : Frame i s t) (w : Word) : Frame i s (t.setPc w) := { h with }

theorem Frame.setV (h : Frame i s t) {r : Reg} (hr : writesV i r) (b : Byte) : Frame i s (t.setV r b) :=
  { h with
    v := fun r' hr' => by
      have hne : r' ≠ r := fun e => hr' (e ▸ hr)
      rw [State.setV_getV, if_neg hne, h.v r' hr'] }

theorem Frame.setVs (h : Frame i s t) (vs : Vector Byte 16) (hvs : ∀ r, ¬ writesV i r → vs.get r = s.getV r) :
    Frame i s (t.setVs vs) :=
  { h with v := hvs }

theorem Frame.setI (h : Frame i s t) (hi : writesI i) (w : Word) : Frame i s (t.setI w) :=
  { h with index := fun hn => absurd hi hn }

theorem Frame.setStackEntry (h : Frame i s t) {j : Fin 16} (hj : (∃ nnn, i = .call nnn) ∧ j.val = s.sp.val) (w : Word) :
    Frame i s (t.setStackEntry j w) :=
  { h with
    stack := fun j' hj' => by
      have hne : j' ≠ j := fun e => hj' (e ▸ hj)
      rw [State.setStackEntry_stackEntry, if_neg hne, h.stack j' hj'] }

theorem Frame.setSp (h : Frame i s t) (hi : i = .ret ∨ ∃ nnn, i = .call nnn) (n : Fin 17) : Frame i s (t.setSp n) :=
  { h with sp := fun hn => absurd hi hn }

theorem Frame.setDt (h : Frame i s t) (hi : ∃ x, i = .ldDtVx x) (b : Byte) : Frame i s (t.setDt b) :=
  { h with dt := fun hn => absurd hi hn }

theorem Frame.setSt (h : Frame i s t) (hi : ∃ x, i = .ldStVx x) (b : Byte) : Frame i s (t.setSt b) :=
  { h with st := fun hn => absurd hi hn }

theorem Frame.setFb (h : Frame i s t) (fb : Framebuffer)
    (hfb : ∀ row col, ¬ writesPixel i s row col → fb.pixel row col = s.pixel row col) : Frame i s (t.setFb fb) :=
  { h with pixels := hfb }

theorem Frame.setMode (h : Frame i s t) (hi : ∃ x, i = .ldVxK x) (m : Mode) : Frame i s (t.setMode m) :=
  { h with mode := fun hn => absurd hi hn }

theorem Frame.setDraws (h : Frame i s t) (hi : ∃ x kk, i = .rnd x kk) (n : Nat) : Frame i s (t.setDraws n) :=
  { h with draws := fun hn => absurd hi hn }

/-- A block store to addresses that the instruction lists as its own. -/
theorem Frame.storeBytes (i : Instr) (s : State) (bs : List Byte)
    (hbs : ∀ a, s.indexAddress 0 ≤ a ∧ a < s.indexAddress bs.length → storesTo i s a) : Frame i s (s.storeBytes bs) :=
  { Frame.refl i s with
    mem := fun a ha => Memory.read_writeBytes_outside bs s.mem _ a fun h => ha (hbs a h) }

/-- Flag first, destination second (R86). -/
theorem Frame.setFlagThenV (h : Frame i s t) (hf : writesFlag i) {x : Reg} (hx : writesDestination i x) (f b : Byte) :
    Frame i s (t.setFlagThenV f x b) :=
  (h.setV (.inr ⟨hf, rfl⟩) f).setV (.inl hx) b

end FrameRules

/-! ## Completion (R85, R88, R89) -/

/-- What an executing instruction leaves in pc (R88). -/
def State.pcAfter (s : State) (i : Instr) : Word :=
  match i with
  | .jp nnn | .call nnn => addressOperand nnn
  | .jpV0 nnn => addressOperand nnn + s.wideV 0
  | .ret => s.stackEntry ⟨s.sp.val - 1, by omega⟩
  | .seByte x kk => s.pc + if s.getV x == kk then 4 else 2
  | .sneByte x kk => s.pc + if s.getV x != kk then 4 else 2
  | .seReg x y => s.pc + if s.getV x == s.getV y then 4 else 2
  | .sneReg x y => s.pc + if s.getV x != s.getV y then 4 else 2
  | .skp x => s.pc + if s.keys.getLsbD (s.getV x).toNat then 4 else 2
  | .sknp x => s.pc + if !s.keys.getLsbD (s.getV x).toNat then 4 else 2
  | _ => s.pc + 2

/-- The instruction answers a next state, within its frame and with the pc of R88. -/
def Completes (i : Instr) (s : State) : Prop := ∃ t, exec i s = .next t ∧ Frame i s t ∧ t.pc = s.pcAfter i

section Completion

variable {i : Instr} {s t : State}

/-- The common shape: some writes within the frame, then pc. -/
theorem Completes.of_setPc (h : exec i s = .next (t.setPc (s.pcAfter i))) (hf : Frame i s t) : Completes i s :=
  ⟨_, h, hf.setPc _, rfl⟩

/-- The shape of DRW, LD B, LD [I] and LD Vx,[I]: the range check of R44, then as above. -/
theorem Completes.of_checkedAccess (n : Nat) (h : exec i s = s.checkedAccess n (t.setPc (s.pcAfter i)))
    (hn : n = 0 ∨ s.i.toNat + (n - 1) ≤ 4095) (hf : Frame i s t) : Completes i s :=
  .of_setPc (h.trans (s.checkedAccess_ok n _ hn)) hf

theorem exec_ret_of_pos (s : State) (h : 0 < s.sp.val) :
    exec .ret s = .next ((s.setSp ⟨s.sp.val - 1, by omega⟩).setPc (s.stackEntry ⟨s.sp.val - 1, by omega⟩)) := by
  rw [exec, execRet, s.pop_of_pos h]

theorem exec_call_of_lt (nnn : BitVec 12) (s : State) (h : s.sp.val < 16) :
    exec (.call nnn) s = .next (((s.setStackEntry ⟨s.sp.val, h⟩ (s.pc + 2)).setSp ⟨s.sp.val + 1, by omega⟩).setPc
      (addressOperand nnn)) := by
  rw [exec, execCall, s.push_of_lt _ h, s.returnAddress_eq]

/-- V[x] as a key number, of a byte that is one (R163). -/
theorem State.keyNumber_of_le (s : State) (x : Reg) (h : (s.getV x).toNat ≤ 15) :
    s.keyNumber x = some ⟨(s.getV x).toNat, by omega⟩ := s.keyNumber_some x _ rfl

theorem Completes.skp (x : Reg) (s : State) (h : (s.getV x).toNat ≤ 15) : Completes (.skp x) s := by
  refine .of_setPc ?_ (.refl _ s)
  rw [exec, execSkp, s.keyNumber_of_le x h]
  rfl

theorem Completes.sknp (x : Reg) (s : State) (h : (s.getV x).toNat ≤ 15) : Completes (.sknp x) s := by
  refine .of_setPc ?_ (.refl _ s)
  rw [exec, execSknp, s.keyNumber_of_le x h]
  rfl

/-- Outside its 1-bits the sprite toggles nothing (R151). -/
theorem State.drawn_pixel_of_off (s : State) (x y : Reg) (n : BitVec 4) (row : Fin 32) (col : Fin 64)
    (h : ¬ s.spriteOn x y n row col) : (s.drawn x y n).1.pixel row col = s.pixel row col := by
  classical
  rw [s.drawn_pixel x y n row col, decide_eq_false h, Bool.false_xor]

/-- Above V[x] a block load leaves the registers alone (R177). -/
theorem State.loadedBlock_get_above (s : State) (x r : Reg) (h : ¬ r ≤ x) : (s.loadedBlock x).get r = s.getV r := by
  rw [s.loadedBlock_get, if_neg h]

/-- An instruction whose check passes completes. -/
theorem Completes.of_executes (h : Executes i s) : Completes i s := by
  have same := Frame.refl i s
  cases i with
  | sys nnn => exact h.elim
  | jp | jpV0 | seByte | sneByte | seReg | sneReg => exact .of_setPc rfl same
  | skp x => exact .skp x s h
  | sknp x => exact .sknp x s h
  | ret => exact .of_setPc (exec_ret_of_pos s h) (same.setSp (.inl rfl) _)
  | call nnn =>
    exact .of_setPc (exec_call_of_lt nnn s h) ((same.setStackEntry ⟨⟨nnn, rfl⟩, rfl⟩ _).setSp (.inr ⟨nnn, rfl⟩) _)
  | cls => exact .of_setPc rfl (same.setFb _ fun _ _ hn => absurd trivial hn)
  | drw x y n =>
    refine .of_checkedAccess (rowCount n) rfl ?_
      ((same.setFb _ (s.drawn_pixel_of_off x y n)).setV (.inr ⟨trivial, rfl⟩) _)
    simp only [Executes, rowCount] at h ⊢
    omega
  | ldByte | addByte | ldReg | or | and | xor | ldVxDt => exact .of_setPc rfl (same.setV (.inl rfl) _)
  | addReg | sub | shr | subn | shl => exact .of_setPc rfl (same.setFlagThenV trivial rfl _ _)
  | rnd x kk => exact .of_setPc rfl ((same.setDraws ⟨x, kk, rfl⟩ _).setV (.inl rfl) _)
  | ldI | addI | ldF => exact .of_setPc rfl (same.setI trivial _)
  | ldVxK x => exact .of_setPc rfl (same.setMode ⟨x, rfl⟩ _)
  | ldDtVx x => exact .of_setPc rfl (same.setDt ⟨x, rfl⟩ _)
  | ldStVx x => exact .of_setPc rfl (same.setSt ⟨x, rfl⟩ _)
  | ldB x => exact .of_checkedAccess 3 rfl (.inr h) (Frame.storeBytes _ s _ fun _ ha => ha)
  | storeRegs x =>
    exact .of_checkedAccess (blockCount x) rfl (.inr h)
      (Frame.storeBytes _ s _ fun a ha => by rwa [State.blockBytes_length] at ha)
  | loadRegs x =>
    exact .of_checkedAccess (blockCount x) rfl (.inr h)
      (same.setVs _ fun r hr => s.loadedBlock_get_above x r fun hle => hr (.inl hle))

/-- An instruction whose check fails raises its one cause and changes nothing else (R89, R208). -/
theorem exec_of_not_executes (h : ¬ Executes i s) : exec i s = .next (s.setMode (.halted (fatalCause i))) := by
  cases i with
  | sys nnn => rfl
  | ret => rw [exec, execRet, s.pop_of_zero h]; rfl
  | call nnn => rw [exec, execCall, s.push_of_full _ h]; rfl
  | drw x y n =>
    refine s.checkedAccess_out _ _ ?_
    simp only [Executes, rowCount] at h ⊢
    omega
  | ldB x => exact s.checkedAccess_out 3 _ fun hn => h (hn.resolve_left (by decide))
  | storeRegs x => exact s.checkedAccess_out (blockCount x) _ fun hn => h (hn.resolve_left (Nat.succ_ne_zero _))
  | loadRegs x => exact s.checkedAccess_out (blockCount x) _ fun hn => h (hn.resolve_left (Nat.succ_ne_zero _))
  | skp x => rw [exec, execSkp, s.keyNumber_none x (Nat.lt_of_not_le h)]; rfl
  | sknp x => rw [exec, execSknp, s.keyNumber_none x (Nat.lt_of_not_le h)]; rfl
  | _ => exact absurd trivial h

/-- The next state of an instruction that executes keeps to the frame and has the pc of R88. -/
theorem frame_of_executes (he : Executes i s) (hx : exec i s = .next t) : Frame i s t ∧ t.pc = s.pcAfter i := by
  obtain ⟨u, hu, hf⟩ := Completes.of_executes he
  exact next_unique hu hx ▸ hf

end Completion

end Sys2Proof.Machine

/-! # What a step can do

Every next state of `step`, written out once by the input taken and the mode it meets (spec/40_execution_engine.md R80 to
R93, spec/60_exceptions.md R208 to R216). -/

namespace Sys2Proof.Machine

/-- The state an event works on: its own input taken off the host's list. -/
abbrev State.afterInput (s : State) : State := s.setInputs s.inputs.tail

/-- Every way in which a step reaches a next state. -/
inductive StepTo (s : State) : State → Prop
  /-- Reset, in any mode (R240). -/
  | reset (h : s.nextInput = .reset) : StepTo s (resetEvent s.afterInput)
  /-- A Tick or KeyPoll in Halted (R209). -/
  | ignored (c : Cause) (h : s.nextInput = .tick ∨ ∃ k, s.nextInput = .keyPoll k) (hm : s.mode = .halted c) :
      StepTo s s.afterInput
  /-- A Tick outside Halted (R213). -/
  | ticked (h : s.nextInput = .tick) (hm : ∀ c, s.mode ≠ .halted c) :
      StepTo s ((s.afterInput.setDt (tickTimer s.dt)).setSt (tickTimer s.st))
  /-- A KeyPoll outside Halted that ends no wait (R215). -/
  | latched (k : BitVec 16) (h : s.nextInput = .keyPoll k)
      (hm : s.mode = .running ∨ ∃ x, s.mode = .awaitingKey x ∧ lowestNewKey s.keys k = none) :
      StepTo s (s.afterInput.setKeys k)
  /-- A KeyPoll that ends the wait with key j (R216). -/
  | delivered (k : BitVec 16) (x j : Reg) (h : s.nextInput = .keyPoll k) (hm : s.mode = .awaitingKey x)
      (hj : lowestNewKey s.keys k = some j) :
      StepTo s (((s.afterInput.setV x (BitVec.ofNat 8 j.val)).setMode .running).setKeys k)
  /-- A byte through the loader port (R93). -/
  | loaded (a : BitVec 12) (b : Byte) (h : s.nextInput = .loaderWrite a b) (hl : s.loadPhase = true) :
      StepTo s (s.afterInput.setMem (s.mem.write a.toNat b))
  /-- A Step outside Running (R82). -/
  | idle (h : s.nextInput = .step) (hm : s.mode ≠ .running) : StepTo s s.atStep
  /-- A Step with pc above 4094 (R83). -/
  | unfetched (h : s.nextInput = .step) (hm : s.mode = .running) (hf : s.fetch = none) :
      StepTo s (s.atStep.setMode (.halted .memoryOutOfRange))
  /-- A Step on a word that selects no row (R84). -/
  | undecoded (w : Word) (e : Reject) (h : s.nextInput = .step) (hm : s.mode = .running) (hf : s.fetch = some w)
      (hd : decode w = .error e) : StepTo s (s.atStep.setMode (.halted .unrecognizedInstruction))
  /-- A Step whose instruction fails its check, or is SYS (R89, R101). -/
  | failed (i : Instr) (h : s.aboutToRun i) (he : ¬ Executes i s.atStep) :
      StepTo s (s.atStep.setMode (.halted (fatalCause i)))
  /-- A Step whose instruction completes (R85). -/
  | completed (i : Instr) (t : State) (h : s.aboutToRun i) (he : Executes i s.atStep) (hx : exec i s.atStep = .next t) :
      StepTo s t

/-! ## Tick and KeyPoll by mode -/

theorem tickEvent_of_halted (s : State) (c : Cause) (hm : s.mode = .halted c) : tickEvent s = s := by
  rw [tickEvent, hm]

theorem tickEvent_of_not_halted (s : State) (hm : ∀ c, s.mode ≠ .halted c) :
    tickEvent s = (s.setDt (tickTimer s.dt)).setSt (tickTimer s.st) := by
  rw [tickEvent]
  cases h : s.mode with
  | halted c => exact absurd h (hm c)
  | running | awaitingKey => rfl

theorem keyPollEvent_of_halted (k : BitVec 16) (s : State) (c : Cause) (hm : s.mode = .halted c) :
    keyPollEvent k s = s := by
  rw [keyPollEvent, hm]

theorem keyPollEvent_of_running (k : BitVec 16) (s : State) (hm : s.mode = .running) :
    keyPollEvent k s = s.setKeys k := by
  simp only [keyPollEvent, resolveWait, hm]

theorem keyPollEvent_of_no_new_key (k : BitVec 16) (s : State) (x : Reg) (hm : s.mode = .awaitingKey x)
    (hk : lowestNewKey s.keys k = none) : keyPollEvent k s = s.setKeys k := by
  simp only [keyPollEvent, resolveWait, hm, hk]

theorem keyPollEvent_of_new_key (k : BitVec 16) (s : State) (x j : Reg) (hm : s.mode = .awaitingKey x)
    (hk : lowestNewKey s.keys k = some j) :
    keyPollEvent k s = ((s.setV x (BitVec.ofNat 8 j.val)).setMode .running).setKeys k := by
  simp only [keyPollEvent, resolveWait, hm, hk]

/-- The key that ends a wait went from up to down (R216). -/
theorem lowestNewKey_some (old new : BitVec 16) (j : Reg) (h : lowestNewKey old new = some j) :
    old.getLsb j = false ∧ new.getLsb j = true := by
  simpa using List.find?_some h

/-! ## The Step event by mode, fetch and decode -/

theorem stepEvent_of_ne_running (s : State) (hm : s.mode ≠ .running) : stepEvent s = .next s := by
  rw [stepEvent]
  cases h : s.mode with
  | running => exact absurd h hm
  | awaitingKey | halted => rfl

theorem stepEvent_of_unfetched (s : State) (hm : s.mode = .running) (hf : s.fetch = none) :
    stepEvent s = .next (s.setMode (.halted .memoryOutOfRange)) := by
  simp only [stepEvent, hm, State.runInstruction, hf, raise_eq]

theorem stepEvent_of_undecoded (s : State) (w : Word) (e : Reject) (hm : s.mode = .running) (hf : s.fetch = some w)
    (hd : decode w = .error e) : stepEvent s = .next (s.setMode (.halted .unrecognizedInstruction)) := by
  simp only [stepEvent, hm, State.runInstruction, hf, hd, raise_eq]

theorem stepEvent_of_decoded (s : State) (w : Word) (i : Instr) (hm : s.mode = .running) (hf : s.fetch = some w)
    (hd : decode w = .ok i) : stepEvent s = exec i s := by
  simp only [stepEvent, hm, State.runInstruction, hf, hd]

/-! ## A step by its input -/

section StepTo

variable {i : Instr} {s t : State}

theorem StepTo.of_tick (h : s.nextInput = .tick) : StepTo s (tickEvent s.afterInput) := by
  by_cases hm : ∃ c, s.mode = .halted c
  · obtain ⟨c, hm⟩ := hm
    rw [tickEvent_of_halted s.afterInput c hm]
    exact .ignored c (.inl h) hm
  · rw [tickEvent_of_not_halted s.afterInput (not_exists.1 hm)]
    exact .ticked h (not_exists.1 hm)

theorem StepTo.of_keyPoll (k : BitVec 16) (h : s.nextInput = .keyPoll k) : StepTo s (keyPollEvent k s.afterInput) := by
  cases hm : s.mode with
  | halted c =>
    rw [keyPollEvent_of_halted k s.afterInput c hm]
    exact .ignored c (.inr ⟨k, h⟩) hm
  | running =>
    rw [keyPollEvent_of_running k s.afterInput hm]
    exact .latched k h (.inl hm)
  | awaitingKey x =>
    cases hk : lowestNewKey s.keys k with
    | none =>
      rw [keyPollEvent_of_no_new_key k s.afterInput x hm hk]
      exact .latched k h (.inr ⟨x, hm, hk⟩)
    | some j =>
      rw [keyPollEvent_of_new_key k s.afterInput x j hm hk]
      exact .delivered k x j h hm hk

theorem StepTo.of_loaderWrite (a : BitVec 12) (b : Byte) (h : s.nextInput = .loaderWrite a b)
    (ht : loaderWriteEvent a b s.afterInput = .next t) : StepTo s t := by
  rw [loaderWriteEvent] at ht
  split at ht
  case isTrue hl => exact Host.Outcome.next.inj ht ▸ .loaded a b h hl
  case isFalse => cases ht

theorem StepTo.of_stepEvent (h : s.nextInput = .step) (ht : stepEvent s.atStep = .next t) : StepTo s t := by
  obtain ⟨hm, e⟩ | ⟨hm, hf, e⟩ | ⟨hm, w, r, hf, hd, e⟩ | ⟨hm, w, i, hf, hd, e⟩ := stepEvent_cases s.atStep
  · exact next_unique e ht ▸ .idle h hm
  · exact next_unique e ht ▸ .unfetched h hm hf
  · exact next_unique e ht ▸ .undecoded w r h hm hf hd
  · have hx : exec i s.atStep = .next t := e.symm.trans ht
    by_cases he : Executes i s.atStep
    · exact .completed i t ⟨h, hm, w, hf, hd⟩ he hx
    · exact next_unique (exec_of_not_executes he) hx ▸ .failed i ⟨h, hm, w, hf, hd⟩ he

/-- A step that answers a next state took one of the listed ways. -/
theorem stepTo_of_step (ht : step s = .next t) : StepTo s t := by
  cases h : s.nextInput with
  | reset => exact next_unique (step_of_reset s h) ht ▸ .reset h
  | tick => exact next_unique (step_of_tick s h) ht ▸ .of_tick h
  | keyPoll k => exact next_unique (step_of_keyPoll s k h) ht ▸ .of_keyPoll k h
  | loaderWrite a b => exact .of_loaderWrite a b h ((step_of_loaderWrite s a b h).symm.trans ht)
  | step => exact .of_stepEvent h ((step_of_step s h).symm.trans ht)

/-- In Running, on a fetchable and recognized word, a step is the instruction's meaning. -/
theorem step_of_aboutToRun (h : s.aboutToRun i) : step s = exec i s.atStep := by
  obtain ⟨hs, hm, w, hf, hd⟩ := h
  exact (step_of_step s hs).trans (stepEvent_of_decoded s.atStep w i hm hf hd)

/-- Each of the listed ways is a step. -/
theorem step_of_stepTo (h : StepTo s t) : step s = .next t := by
  cases h with
  | reset h => exact step_of_reset s h
  | ignored c h hm =>
    obtain h | ⟨k, h⟩ := h
    · exact (step_of_tick s h).trans (congrArg _ (tickEvent_of_halted _ c hm))
    · exact (step_of_keyPoll s k h).trans (congrArg _ (keyPollEvent_of_halted k _ c hm))
  | ticked h hm => exact (step_of_tick s h).trans (congrArg _ (tickEvent_of_not_halted _ hm))
  | latched k h hm =>
    obtain hm | ⟨x, hm, hk⟩ := hm
    · exact (step_of_keyPoll s k h).trans (congrArg _ (keyPollEvent_of_running k _ hm))
    · exact (step_of_keyPoll s k h).trans (congrArg _ (keyPollEvent_of_no_new_key k _ x hm hk))
  | delivered k x j h hm hj => exact (step_of_keyPoll s k h).trans (congrArg _ (keyPollEvent_of_new_key k _ x j hm hj))
  | loaded a b h hl => exact (step_of_loaderWrite s a b h).trans (if_pos hl)
  | idle h hm => exact (step_of_step s h).trans (stepEvent_of_ne_running _ hm)
  | unfetched h hm hf => exact (step_of_step s h).trans (stepEvent_of_unfetched _ hm hf)
  | undecoded w e h hm hf hd => exact (step_of_step s h).trans (stepEvent_of_undecoded _ w e hm hf hd)
  | failed i h he => exact (step_of_aboutToRun h).trans (exec_of_not_executes he)
  | completed i t h he hx => exact (step_of_aboutToRun h).trans hx

theorem State.aboutToRun.nextInput_eq (h : s.aboutToRun i) : s.nextInput = .step := h.1

theorem State.aboutToRun.mode_eq (h : s.aboutToRun i) : s.mode = .running := h.2.1

/-- Only an instruction at pc at most 4094 is run (R83). -/
theorem State.aboutToRun.pc_le (h : s.aboutToRun i) : s.pc.toNat ≤ 4094 := by
  obtain ⟨-, -, w, hw, -⟩ := h
  rw [s.fetch_eq] at hw
  by_contra hpc
  rw [if_neg hpc] at hw
  cases hw

end StepTo

end Sys2Proof.Machine

/-! # The bounds of pc and of the call stack (spec/10_state.md R15, spec/41_control_flow.md R102) -/

namespace Sys2Proof.Machine

section ControlBounds

variable {i : Instr} {s t : State}

/-- Next and Skip from a pc that a fetch allows. -/
theorem skip_toNat_le (w : Word) (c : Bool) (h : w.toNat ≤ 4094) : (w + if c then 4 else 2).toNat ≤ 0x10FE := by
  have hc : (if c then 4 else 2 : Word).toNat ≤ 4 := by cases c <;> decide
  rw [BitVec.toNat_add]
  omega

/-- `nnn + V[0]` is at most 0x0FFF + 0xFF, so it never wraps (R15, R109). -/
theorem addressOperand_add_wideV_toNat_le (nnn : BitVec 12) (s : State) (r : Reg) :
    (addressOperand nnn + s.wideV r).toNat ≤ 0x10FE := by
  have ha := nnn.isLt
  have hv := (s.getV r).isLt
  rw [BitVec.toNat_add, addressOperand_toNat, s.wideV_toNat]
  omega

/-- The pc after an instruction is within the bound of R15. RET needs the bound on the entry that it pops. -/
theorem State.pcAfter_toNat_le (s : State) (hs : s.controlBounded) (hpc : s.pc.toNat ≤ 4094) (he : Executes i s) :
    (s.pcAfter i).toNat ≤ 0x10FE := by
  cases i with
  | jp nnn | call nnn =>
    have hle : nnn.toNat ≤ 0x10FE := by omega
    exact (addressOperand_toNat nnn).trans_le hle
  | jpV0 nnn => exact addressOperand_add_wideV_toNat_le nnn s 0
  | ret =>
    have hsp : 0 < s.sp.val := he
    exact (hs.2 ⟨s.sp.val - 1, by omega⟩ (Nat.sub_lt hsp one_pos)).2.trans (by decide)
  | seByte | sneByte | seReg | sneReg | skp | sknp => exact skip_toNat_le s.pc _ hpc
  | _ => exact skip_toNat_le s.pc false hpc

/-- The return address that CALL pushes is within the bounds of R102. -/
theorem State.returnAddress_bounds (s : State) (hpc : s.pc.toNat ≤ 4094) :
    2 ≤ s.returnAddress.toNat ∧ s.returnAddress.toNat ≤ 4096 := by
  have h2 : (2 : Word).toNat = 2 := rfl
  rw [s.returnAddress_eq, BitVec.toNat_add, h2]
  omega

/-- No instruction but CALL makes more entries valid (R18). -/
theorem exec_sp_le (he : Executes i s) (hx : exec i s = .next t) (hi : ¬ ∃ nnn, i = .call nnn) : t.sp.val ≤ s.sp.val := by
  obtain ⟨hf, -⟩ := frame_of_executes he hx
  by_cases hr : i = .ret
  · subst hr
    obtain rfl := next_unique (exec_ret_of_pos s he) hx
    exact Nat.sub_le _ _
  · exact (congrArg Fin.val (hf.sp fun h => h.elim hr hi)).le

/-- Every entry that is valid after an instruction was valid before, or is the return address that CALL pushed. -/
theorem exec_valid_entry (he : Executes i s) (hx : exec i s = .next t) (j : Fin 16) (hj : j.val < t.sp.val) :
    (j.val < s.sp.val ∧ t.stackEntry j = s.stackEntry j) ∨ t.stackEntry j = s.returnAddress := by
  obtain ⟨hf, -⟩ := frame_of_executes he hx
  by_cases hi : ∃ nnn, i = .call nnn
  · obtain ⟨nnn, rfl⟩ := hi
    obtain rfl := next_unique (exec_call_of_lt nnn s he) hx
    have hle : j.val < s.sp.val + 1 := hj
    by_cases h : j.val = s.sp.val
    · exact .inr (by simp [Fin.ext_iff, h])
    · exact .inl ⟨by omega, hf.stack j fun hn => h hn.2⟩
  · exact .inl ⟨hj.trans_le (exec_sp_le he hx hi), hf.stack j fun hn => hi hn.1⟩

theorem exec_keeps_controlBounded (hs : s.controlBounded) (hpc : s.pc.toNat ≤ 4094) (he : Executes i s)
    (hx : exec i s = .next t) : t.controlBounded := by
  obtain ⟨-, ht⟩ := frame_of_executes he hx
  refine ⟨ht ▸ s.pcAfter_toNat_le hs hpc he, fun j hj => ?_⟩
  obtain ⟨hlt, e⟩ | e := exec_valid_entry he hx j hj
  · exact e ▸ hs.2 j hlt
  · exact e ▸ s.returnAddress_bounds hpc

theorem resetEvent_controlBounded (s : State) : (resetEvent s).controlBounded :=
  ⟨show (0x0200 : Word).toNat ≤ 0x10FE by decide, fun j hj => absurd hj (Nat.not_lt_zero j.val)⟩

/-- Settles O17: RET's popped entry bounds pc, and the pc of a CALL bounds the entry pushed; no other step but Reset
touches pc or a valid entry. -/
theorem everyStepKeepsControlBounded : Obligations.EveryStepKeepsControlBounded := by
  intro s t hs ht
  cases stepTo_of_step ht with
  | reset => exact resetEvent_controlBounded _
  | completed i _ hi he hx => exact exec_keeps_controlBounded (s := s.atStep) hs hi.pc_le he hx
  | ignored | ticked | latched | delivered | loaded | idle | unfetched | undecoded | failed => exact hs

end ControlBounds

/-- Settles O19: the reset memory is the empty list, no stack entry is valid, and nothing has changed since Reset. -/
theorem resetMeetsInvariants : Obligations.ResetMeetsInvariants :=
  ⟨Memory.empty_wf, resetEvent_controlBounded State.reset, fun _ => rfl⟩

end Sys2Proof.Machine

/-! # What nothing reads: ST, and the entries of the call stack at and above sp

Both noninterference statements are cases of one simulation. A state is overwritten with another ST and another stack,
of which the first need agree only if `sound` fails and the second only below sp (or everywhere, if `dead` fails); every
step keeps this relation (spec/10_state.md R17, R20). -/

namespace Sys2Proof.Machine

/-- The state with another ST and another call stack; sp, and so the number of valid entries, stays. -/
def State.overwrite (s : State) (b : Byte) (vs : Vector Word 16) : State := { s with st := b, stack := vs }

/-- `b` and `vs` differ from ST and the stack of `s` only where the statement at hand allows it: in ST if `sound`, in the
entries at and above sp if `dead`. -/
def OverwritesUnread (sound dead : Prop) (s : State) (b : Byte) (vs : Vector Word 16) : Prop :=
  (b = s.st ∨ sound) ∧ ∀ j : Fin 16, j.val < s.sp.val ∨ ¬ dead → vs.get j = s.stackEntry j

/-- The answer with another state in place of a next state. -/
def mapNext (f : State → State) : Result → Result
  | .next t => .next (f t)
  | .fault r => .fault r
  | .refused r => .refused r

section Noninterference

variable {sound dead : Prop} {i : Instr} {s t : State} {b : Byte} {vs : Vector Word 16}

/-! ## Instructions -/

/-- The range check reads I alone (R44). -/
theorem checkedAccess_overwrite (n : Nat) {t' : State} (ht : t' = t.overwrite b vs) :
    (s.overwrite b vs).checkedAccess n t' = mapNext (·.overwrite b vs) (s.checkedAccess n t) := by
  by_cases hn : n = 0 ∨ s.i.toNat + (n - 1) ≤ 4095
  · rw [s.checkedAccess_ok n t hn, ht]
    exact (s.overwrite b vs).checkedAccess_ok n _ hn
  · rw [s.checkedAccess_out n t hn]
    exact (s.overwrite b vs).checkedAccess_out n _ hn

theorem exec_skp_overwrite (x : Reg) (s : State) (b : Byte) (vs : Vector Word 16) :
    exec (.skp x) (s.overwrite b vs) = mapNext (·.overwrite b vs) (exec (.skp x) s) := by
  have hk : (s.overwrite b vs).keyNumber x = s.keyNumber x := rfl
  rw [exec, exec, execSkp, execSkp, hk]
  cases s.keyNumber x <;> rfl

theorem exec_sknp_overwrite (x : Reg) (s : State) (b : Byte) (vs : Vector Word 16) :
    exec (.sknp x) (s.overwrite b vs) = mapNext (·.overwrite b vs) (exec (.sknp x) s) := by
  have hk : (s.overwrite b vs).keyNumber x = s.keyNumber x := rfl
  rw [exec, exec, execSknp, execSknp, hk]
  cases s.keyNumber x <;> rfl

/-- An instruction other than RET, CALL and LD ST, Vx neither reads nor writes ST and the stack. -/
theorem exec_overwrite (hret : i ≠ .ret) (hcall : ¬ ∃ nnn, i = .call nnn) (hst : ¬ ∃ x, i = .ldStVx x) :
    exec i (s.overwrite b vs) = mapNext (·.overwrite b vs) (exec i s) := by
  cases i with
  | ret => exact absurd rfl hret
  | call nnn => exact absurd ⟨nnn, rfl⟩ hcall
  | ldStVx x => exact absurd ⟨x, rfl⟩ hst
  | skp x => exact exec_skp_overwrite x s b vs
  | sknp x => exact exec_sknp_overwrite x s b vs
  | drw | ldB | storeRegs | loadRegs => exact checkedAccess_overwrite _ rfl
  | _ => rfl

theorem OverwritesUnread.of_same (h : OverwritesUnread sound dead s b vs) (hst : t.st = s.st) (hsp : t.sp = s.sp)
    (hstack : ∀ j, t.stackEntry j = s.stackEntry j) : OverwritesUnread sound dead t b vs :=
  ⟨hst ▸ h.1, fun j hj => (h.2 j (hsp ▸ hj)).trans (hstack j).symm⟩

/-- RET reads only the newest valid entry. -/
theorem exec_ret_overwrite (h : OverwritesUnread sound dead s b vs) (he : 0 < s.sp.val) (hx : exec .ret s = .next t) :
    exec .ret (s.overwrite b vs) = .next (t.overwrite b vs) := by
  have htop : vs.get ⟨s.sp.val - 1, by omega⟩ = s.stackEntry ⟨s.sp.val - 1, by omega⟩ :=
    h.2 _ (.inl (Nat.sub_lt he one_pos))
  obtain rfl := next_unique (exec_ret_of_pos s he) hx
  rw [← htop]
  exact exec_ret_of_pos (s.overwrite b vs) he

/-- RET ends the validity of an entry and writes none. -/
theorem OverwritesUnread.of_ret (h : OverwritesUnread sound dead s b vs) (he : Executes .ret s)
    (hx : exec .ret s = .next t) : OverwritesUnread sound dead t b vs := by
  obtain rfl := next_unique (exec_ret_of_pos s he) hx
  exact ⟨h.1, fun j hj => h.2 j (hj.imp_left fun hlt => hlt.trans_le (Nat.sub_le _ _))⟩

/-- CALL writes the entry that it makes valid. -/
theorem OverwritesUnread.of_call {nnn : BitVec 12} (h : OverwritesUnread sound dead s b vs)
    (he : Executes (.call nnn) s) (hx : exec (.call nnn) s = .next t) :
    OverwritesUnread sound dead t b (vs.set s.sp.val (s.pc + 2) he) := by
  obtain rfl := next_unique (exec_call_of_lt nnn s he) hx
  refine ⟨h.1, fun j hj => ?_⟩
  have hvs : (vs.set s.sp.val (s.pc + 2) he).get j = if j = ⟨s.sp.val, he⟩ then s.pc + 2 else vs.get j :=
    (s.overwrite b vs).setStackEntry_stackEntry ⟨s.sp.val, he⟩ (s.pc + 2) j
  rw [hvs, State.setPc_stackEntry, State.setSp_stackEntry, State.setStackEntry_stackEntry]
  split
  case isTrue => rfl
  case isFalse hne =>
    refine h.2 j (hj.imp_left fun hlt => ?_)
    exact (Nat.lt_succ_iff_lt_or_eq.1 hlt).resolve_right fun e => hne (Fin.ext e)

/-- The simulation on an instruction that completes. -/
theorem exec_simulates (h : OverwritesUnread sound dead s b vs) (he : Executes i s) (hx : exec i s = .next t) :
    ∃ b' vs', OverwritesUnread sound dead t b' vs' ∧ exec i (s.overwrite b vs) = .next (t.overwrite b' vs') := by
  by_cases hret : i = .ret
  · subst hret
    exact ⟨b, vs, h.of_ret he hx, exec_ret_overwrite h he hx⟩
  by_cases hcall : ∃ nnn, i = .call nnn
  · obtain ⟨nnn, rfl⟩ := hcall
    refine ⟨b, _, h.of_call he hx, ?_⟩
    obtain rfl := next_unique (exec_call_of_lt nnn s he) hx
    exact exec_call_of_lt nnn (s.overwrite b vs) he
  by_cases hst : ∃ x, i = .ldStVx x
  · obtain ⟨x, rfl⟩ := hst
    obtain rfl := Host.Outcome.next.inj hx
    exact ⟨s.getV x, vs, ⟨.inl rfl, h.2⟩, rfl⟩
  · obtain ⟨hf, -⟩ := frame_of_executes he hx
    refine ⟨b, vs, h.of_same (hf.st hst) (hf.sp fun hn => hn.elim hret hcall) fun j => hf.stack j fun hn => hcall hn.1, ?_⟩
    rw [exec_overwrite hret hcall hst, hx]
    rfl

/-! ## Steps and runs -/

/-- The simulation on every way a step can go. -/
theorem stepTo_simulates (h : OverwritesUnread sound dead s b vs) (ht : StepTo s t) :
    ∃ b' vs', OverwritesUnread sound dead t b' vs' ∧ StepTo (s.overwrite b vs) (t.overwrite b' vs') := by
  cases ht with
  | reset hn => exact ⟨0, (resetEvent s).stack, ⟨.inl rfl, fun _ _ => rfl⟩, .reset hn⟩
  | ignored c hn hm => exact ⟨b, vs, h, .ignored c hn hm⟩
  | ticked hn hm => exact ⟨tickTimer b, vs, ⟨h.1.imp_left (congrArg tickTimer), h.2⟩, .ticked hn hm⟩
  | latched k hn hm => exact ⟨b, vs, h, .latched k hn hm⟩
  | delivered k x j hn hm hj => exact ⟨b, vs, h, .delivered k x j hn hm hj⟩
  | loaded a d hn hl => exact ⟨b, vs, h, .loaded a d hn hl⟩
  | idle hn hm => exact ⟨b, vs, h, .idle hn hm⟩
  | unfetched hn hm hf => exact ⟨b, vs, h, .unfetched hn hm hf⟩
  | undecoded w e hn hm hf hd => exact ⟨b, vs, h, .undecoded w e hn hm hf hd⟩
  | failed i hi he => exact ⟨b, vs, h, .failed i hi he⟩
  | completed i _ hi he hx =>
    obtain ⟨b', vs', h', hx'⟩ := exec_simulates (s := s.atStep) h he hx
    exact ⟨b', vs', h', .completed i _ hi he hx'⟩

/-- The simulation along a run. -/
theorem run_simulates (n : Nat) (h : OverwritesUnread sound dead s b vs) (ht : Sys2Proof.core.run n s = .next t) :
    ∃ b' vs', OverwritesUnread sound dead t b' vs' ∧ Sys2Proof.core.run n (s.overwrite b vs) = .next (t.overwrite b' vs') := by
  induction n generalizing s b vs with
  | zero =>
    obtain rfl := next_unique (core_run_zero s) ht
    exact ⟨b, vs, h, core_run_zero _⟩
  | succ n ih =>
    obtain ⟨u, hu, hut⟩ := core_run_of_succ n s t ht
    obtain ⟨b₁, vs₁, h₁, hu₁⟩ := stepTo_simulates h (stepTo_of_step hu)
    rw [core_run_of_next n _ _ (step_of_stepTo hu₁)]
    exact ih h₁ hut

/-! ## The two statements -/

theorem OverwritesUnread.stack_eq (h : OverwritesUnread sound False s b vs) : vs = s.stack := by
  apply Vector.ext
  intro k hk
  exact h.2 ⟨k, hk⟩ (.inr not_false)

/-- Settles O24: the simulation with another ST and the same stack. -/
theorem soundTimerInfluencesNothing : Obligations.SoundTimerInfluencesNothing := by
  intro n s t b ht
  have h : OverwritesUnread True False s b s.stack := ⟨.inr trivial, fun _ _ => rfl⟩
  obtain ⟨b', vs', h', ht'⟩ := run_simulates n h ht
  obtain rfl := h'.stack_eq
  exact ⟨t.overwrite b' t.stack, ht', rfl⟩

theorem sameButDeadEntries_iff {s' : State} :
    s.sameButDeadEntries s' ↔ ∃ vs, OverwritesUnread False True s s.st vs ∧ s' = s.overwrite s.st vs := by
  constructor
  · rintro ⟨hlive, e⟩
    refine ⟨s'.stack, ⟨.inl rfl, fun j hj => hlive j (hj.resolve_right (not_not_intro trivial))⟩, ?_⟩
    exact congrArg (fun u : State => { u with stack := s'.stack }) e
  · rintro ⟨vs, h, rfl⟩
    exact ⟨fun j hj => h.2 j (.inl hj), rfl⟩

/-- Settles O25: the simulation with the same ST and other entries at and above sp. -/
theorem deadStackEntriesAreUnobservable : Obligations.DeadStackEntriesAreUnobservable := by
  intro n s s' t hs ht
  obtain ⟨vs, h, rfl⟩ := sameButDeadEntries_iff.1 hs
  obtain ⟨b', vs', h', ht'⟩ := run_simulates n h ht
  obtain rfl : b' = t.st := h'.1.resolve_right id
  exact ⟨t.overwrite t.st vs', ht', sameButDeadEntries_iff.2 ⟨vs', h', rfl⟩⟩

end Noninterference

end Sys2Proof.Machine

/-! # Who changes what, over whole steps (spec/10_state.md R12, R19 to R26)

Each statement takes the ways of `StepTo` in turn: the events show what they write, and an instruction that completes
keeps to its frame. -/

namespace Sys2Proof.Machine

section Writers

variable {i : Instr} {s t : State}

/-- What an instruction stores to and draws on is seen alike before the Step takes its input off the list. -/
theorem storesTo_atStep (i : Instr) (s : State) (a : Nat) : storesTo i s.atStep a ↔ storesTo i s a := Iff.rfl

theorem writesPixel_atStep (i : Instr) (s : State) (row : Fin 32) (col : Fin 64) :
    writesPixel i s.atStep row col ↔ writesPixel i s row col := Iff.rfl

/-! ## Registers -/

/-- Settles O20: Reset, the key delivery and the frame of the instruction that ran are the only ways to V. -/
theorem registersChangeOnlyByTheirWriters : Obligations.RegistersChangeOnlyByTheirWriters := by
  intro s t r ht hne
  cases stepTo_of_step ht with
  | reset h => exact .inl h
  | completed i _ h he hx =>
    obtain ⟨hf, -⟩ := frame_of_executes he hx
    exact .inr (.inl ⟨i, h, not_not.1 fun hn => hne (hf.v r hn)⟩)
  | delivered k x j h hm hj =>
    have hrx : r = x := by
      by_contra hn
      exact hne (by simp [hn])
    exact .inr (.inr ⟨k, h, hrx ▸ hm⟩)
  | ignored | ticked | latched | loaded | idle | unfetched | undecoded | failed => exact absurd rfl hne

/-! ## Memory -/

/-- Settles O21: a write leaves the other addresses alone, canonical list or not, so the premise is not needed. -/
theorem memoryChangesOnlyByItsWriters : Obligations.MemoryChangesOnlyByItsWriters := by
  intro s t a _ ht hne
  cases stepTo_of_step ht with
  | reset h => exact .inl h
  | loaded addr b h hl =>
    have ha : a = addr.toNat := not_not.1 fun hn => hne (Memory.read_write_of_ne s.mem _ b a hn)
    exact .inr (.inl ⟨addr, b, h, ha.symm⟩)
  | completed i _ h he hx =>
    obtain ⟨hf, -⟩ := frame_of_executes he hx
    exact .inr (.inr ⟨i, h, (storesTo_atStep i s a).1 (not_not.1 fun hn => hne (hf.mem a hn))⟩)
  | ignored | ticked | latched | delivered | idle | unfetched | undecoded | failed => exact absurd rfl hne

/-! ## Pixels -/

/-- Settles O22: no event but Reset writes the framebuffer, and an instruction keeps to its frame. -/
theorem pixelsChangeOnlyByTheirWriters : Obligations.PixelsChangeOnlyByTheirWriters := by
  intro s t row col ht hne
  cases stepTo_of_step ht with
  | reset h => exact .inl h
  | completed i _ h he hx =>
    obtain ⟨hf, -⟩ := frame_of_executes he hx
    exact .inr ⟨i, h, (writesPixel_atStep i s row col).1 (not_not.1 fun hn => hne (hf.pixels row col hn))⟩
  | ignored | ticked | latched | delivered | loaded | idle | unfetched | undecoded | failed => exact absurd rfl hne

/-! ## Timers and the key latch -/

theorem dt_changes_only_by_writers (ht : StepTo s t) (hne : t.dt ≠ s.dt) :
    s.nextInput = .reset ∨ s.nextInput = .tick ∨ ∃ x, s.aboutToRun (.ldDtVx x) := by
  cases ht with
  | reset h => exact .inl h
  | ticked h => exact .inr (.inl h)
  | completed i _ h he hx =>
    obtain ⟨hf, -⟩ := frame_of_executes he hx
    obtain ⟨x, rfl⟩ : ∃ x, i = .ldDtVx x := not_not.1 fun hn => hne (hf.dt hn)
    exact .inr (.inr ⟨x, h⟩)
  | ignored | latched | delivered | loaded | idle | unfetched | undecoded | failed => exact absurd rfl hne

theorem st_changes_only_by_writers (ht : StepTo s t) (hne : t.st ≠ s.st) :
    s.nextInput = .reset ∨ s.nextInput = .tick ∨ ∃ x, s.aboutToRun (.ldStVx x) := by
  cases ht with
  | reset h => exact .inl h
  | ticked h => exact .inr (.inl h)
  | completed i _ h he hx =>
    obtain ⟨hf, -⟩ := frame_of_executes he hx
    obtain ⟨x, rfl⟩ : ∃ x, i = .ldStVx x := not_not.1 fun hn => hne (hf.st hn)
    exact .inr (.inr ⟨x, h⟩)
  | ignored | latched | delivered | loaded | idle | unfetched | undecoded | failed => exact absurd rfl hne

theorem keys_change_only_by_writers (ht : StepTo s t) (hne : t.keys ≠ s.keys) :
    s.nextInput = .reset ∨ s.nextInput = .keyPoll t.keys := by
  cases ht with
  | reset h => exact .inl h
  | latched k h | delivered k x j h => exact .inr h
  | completed i _ h he hx =>
    obtain ⟨hf, -⟩ := frame_of_executes he hx
    exact absurd hf.keys hne
  | ignored | ticked | loaded | idle | unfetched | undecoded | failed => exact absurd rfl hne

/-- Settles O23, one writer list for each of the three. -/
theorem timersAndKeysChangeOnlyByTheirWriters : Obligations.TimersAndKeysChangeOnlyByTheirWriters := by
  intro s t ht
  have h := stepTo_of_step ht
  exact ⟨dt_changes_only_by_writers h, st_changes_only_by_writers h, keys_change_only_by_writers h⟩

/-! ## The mode (R26) -/

/-- The mode after an instruction that completes: only LD Vx, K changes it. -/
theorem mode_of_executes (he : Executes i s) (hx : exec i s = .next t) :
    t.mode = s.mode ∨ ∃ x, i = .ldVxK x ∧ t.mode = .awaitingKey x := by
  by_cases hi : ∃ x, i = .ldVxK x
  · obtain ⟨x, rfl⟩ := hi
    obtain rfl := Host.Outcome.next.inj hx
    exact .inr ⟨x, rfl, rfl⟩
  · exact .inl ((frame_of_executes he hx).1.mode hi)

theorem mode_after_running (ht : StepTo s t) (hm : s.mode = .running) :
    t.mode = .running ∨
      (s.nextInput = .step ∧ ((∃ x, s.aboutToRun (.ldVxK x) ∧ t.mode = .awaitingKey x) ∨ ∃ c, t.mode = .halted c)) := by
  cases ht with
  | reset | delivered => exact .inl rfl
  | ignored | ticked | latched | loaded | idle => exact .inl hm
  | unfetched h | undecoded w e h => exact .inr ⟨h, .inr ⟨_, rfl⟩⟩
  | failed i h => exact .inr ⟨h.nextInput_eq, .inr ⟨_, rfl⟩⟩
  | completed i _ h he hx =>
    obtain hsame | ⟨x, rfl, hwait⟩ := mode_of_executes he hx
    · exact .inl (hsame.trans hm)
    · exact .inr ⟨h.nextInput_eq, .inl ⟨x, h, hwait⟩⟩

theorem mode_after_awaitingKey (ht : StepTo s t) (x : Reg) (hm : s.mode = .awaitingKey x) :
    t.mode = .awaitingKey x ∨
      (t.mode = .running ∧
        (s.nextInput = .reset ∨
          ∃ k : BitVec 16, s.nextInput = .keyPoll k ∧ ∃ j : Reg, s.key j = false ∧ k.getLsb j = true)) := by
  have hr : s.mode ≠ .running := by simp [hm]
  cases ht with
  | reset h => exact .inr ⟨rfl, .inl h⟩
  | delivered k _ j h _ hj => exact .inr ⟨rfl, .inr ⟨k, h, j, lowestNewKey_some _ _ j hj⟩⟩
  | ignored | ticked | latched | loaded | idle => exact .inl hm
  | unfetched h hm' | undecoded w e h hm' => exact absurd hm' hr
  | failed i h | completed i _ h => exact absurd h.mode_eq hr

theorem mode_after_halted (ht : StepTo s t) (c : Cause) (hm : s.mode = .halted c) :
    t.mode = .halted c ∨ (t.mode = .running ∧ s.nextInput = .reset) := by
  have hr : s.mode ≠ .running := by simp [hm]
  cases ht with
  | reset h => exact .inr ⟨rfl, h⟩
  | delivered k x j h hm' => exact absurd (hm'.symm.trans hm) (by simp)
  | ignored | ticked | latched | loaded | idle => exact .inl hm
  | unfetched h hm' | undecoded w e h hm' => exact absurd hm' hr
  | failed i h | completed i _ h => exact absurd h.mode_eq hr

theorem mode_after_reset (ht : step s = .next t) (h : s.nextInput = .reset) : t.mode = .running := by
  obtain rfl := next_unique (step_of_reset s h) ht
  rfl

/-- Settles O11, mode by mode. -/
theorem modeChangesOnlyAsListed : Obligations.ModeChangesOnlyAsListed := by
  intro s t ht
  refine ⟨mode_after_reset ht, ?_⟩
  have h := stepTo_of_step ht
  cases hm : s.mode with
  | running => exact mode_after_running h hm
  | awaitingKey x => exact mode_after_awaitingKey h x hm
  | halted c => exact mode_after_halted h c hm

end Writers

end Sys2Proof.Machine

/-! # Memory: the canonical list, and the word that a store leaves (spec/20_memory.md R40 to R45, R53) -/

namespace Sys2Proof.Machine

section MemoryFamily

variable {i : Instr} {s t : State}

/-! ## What an instruction does to memory -/

theorem exec_ldB_of_le (x : Reg) (s : State) (h : s.i.toNat + 2 ≤ 4095) :
    exec (.ldB x) s = .next ((s.storeBytes (decimalDigits (s.getV x))).setPc (s.pc + 2)) :=
  s.checkedAccess_ok 3 _ (.inr h)

theorem exec_storeRegs_of_le (x : Reg) (s : State) (h : s.i.toNat + x.val ≤ 4095) :
    exec (.storeRegs x) s = .next ((s.storeBytes (s.blockBytes x)).setPc (s.pc + 2)) :=
  s.checkedAccess_ok (blockCount x) _ (.inr h)

/-- A checked access keeps the memory that the state it goes on to has kept; the halt keeps it anyway (R44). -/
theorem State.checkedAccess_mem {n : Nat} {u : State} (h : s.checkedAccess n u = .next t) (hu : u.mem = s.mem) :
    t.mem = s.mem := by
  obtain rfl | rfl := s.checkedAccess_next n u t h
  · exact hu
  · rfl

/-- Memory after an instruction, as a list: the same, or with one block stored at I (R175, R176). -/
theorem exec_mem_cases (he : Executes i s) (hx : exec i s = .next t) :
    t.mem = s.mem ∨ ∃ bs, t.mem = (s.storeBytes bs).mem := by
  cases i with
  | sys nnn => exact he.elim
  | ldB x =>
    obtain rfl := next_unique (exec_ldB_of_le x s he) hx
    exact .inr ⟨decimalDigits (s.getV x), rfl⟩
  | storeRegs x =>
    obtain rfl := next_unique (exec_storeRegs_of_le x s he) hx
    exact .inr ⟨s.blockBytes x, rfl⟩
  | drw | loadRegs => exact .inl (State.checkedAccess_mem hx rfl)
  | ret =>
    obtain rfl := next_unique (exec_ret_of_pos s he) hx
    exact .inl rfl
  | call nnn =>
    obtain rfl := next_unique (exec_call_of_lt nnn s he) hx
    exact .inl rfl
  | skp x =>
    rw [exec, execSkp, s.keyNumber_of_le x he] at hx
    obtain rfl := Host.Outcome.next.inj hx
    exact .inl rfl
  | sknp x =>
    rw [exec, execSknp, s.keyNumber_of_le x he] at hx
    obtain rfl := Host.Outcome.next.inj hx
    exact .inl rfl
  | _ =>
    obtain rfl := Host.Outcome.next.inj hx
    exact .inl rfl

/-! ## The canonical form -/

theorem State.memoryCanonical.of_mem_eq (hs : s.memoryCanonical) (h : t.mem = s.mem) : t.memoryCanonical := by
  rwa [State.memoryCanonical, h]

theorem State.memoryCanonical.storeBytes (hs : s.memoryCanonical) (bs : List Byte) :
    (s.storeBytes bs).memoryCanonical := Memory.writeBytes_wf bs s.mem _ hs

theorem exec_keeps_memoryCanonical (hs : s.memoryCanonical) (he : Executes i s) (hx : exec i s = .next t) :
    t.memoryCanonical := by
  obtain h | ⟨bs, h⟩ := exec_mem_cases he hx
  · exact hs.of_mem_eq h
  · exact (hs.storeBytes bs).of_mem_eq h

/-- Settles O16: Reset empties the list, the loader port writes one byte and an instruction at most a block, and each
write keeps the form; no other step touches memory. -/
theorem everyStepKeepsMemoryCanonical : Obligations.EveryStepKeepsMemoryCanonical := by
  intro s t hs ht
  cases stepTo_of_step ht with
  | reset => exact Memory.empty_wf
  | loaded a b => exact Memory.write_wf s.mem a.toNat b hs
  | completed i _ _ he hx => exact exec_keeps_memoryCanonical (s := s.atStep) hs he hx
  | ignored | ticked | latched | delivered | idle | unfetched | undecoded | failed => exact hs

/-! ## A stored word as the fetch reads it -/

/-- The k-th byte of a stored block. -/
theorem State.memoryCanonical.read_storeBytes (hs : s.memoryCanonical) (bs : List Byte)
    (hbs : s.i.toNat + bs.length ≤ 4096) (k : Nat) (hk : k < bs.length) :
    (s.storeBytes bs).mem.read (s.i.toNat + k) = bs[k] := by
  rw [s.storeBytes_read bs _ hs hbs, dif_pos (by omega)]
  simp only [Nat.add_sub_cancel_left]

/-- A fetch at I after a block store reads the block's first two bytes, big-endian (R45). -/
theorem State.memoryCanonical.fetch_storeBytes (hs : s.memoryCanonical) (bs : List Byte)
    (hbs : s.i.toNat + bs.length ≤ 4096) (h2 : 1 < bs.length) :
    ((s.storeBytes bs).setPc s.i).fetch = some (bs[0] ++ bs[1]) := by
  have hi : s.i.toNat ≤ 4094 := by omega
  have hhigh := hs.read_storeBytes bs hbs 0 (by omega)
  have hlow := hs.read_storeBytes bs hbs 1 h2
  rw [State.fetch_eq, State.setPc_pc, State.setPc_mem, if_pos hi, hlow, ← hhigh]
  rfl

/-- Settles O60: the block that LD [I], Vx stores begins with V[0] and V[1]. -/
theorem storedWordIsFetched : Obligations.StoredWordIsFetched := by
  intro x s t hs hx hle ht
  obtain rfl := next_unique (exec_storeRegs_of_le x s hle) ht
  have hlen := s.blockBytes_length x
  have hfetch := hs.fetch_storeBytes (s.blockBytes x) (by omega) (by omega)
  rw [s.blockBytes_getElem, s.blockBytes_getElem] at hfetch
  exact hfetch

end MemoryFamily

end Sys2Proof.Machine

/-! # The encoding: words, instructions and rows (spec/30_encoding.md R60 to R70, R75) -/

namespace Sys2Proof

open Sys2Proof.Laws

/-! ## A word from its fields, format by format (R61, R62) -/

theorem formatA_of_fields {w : Word} {op : BitVec 4} (hop : (fieldOp w).toNat = op.toNat) :
    formatA op (fieldNnn w) = w := by
  apply BitVec.eq_of_toNat_eq
  rw [formatA_toNat, ← hop, fieldOp_toNat, fieldNnn_toNat]
  omega

theorem formatXK_of_fields {w : Word} {op : BitVec 4} {kk : Byte} (hop : (fieldOp w).toNat = op.toNat)
    (hkk : (fieldKk w).toNat = kk.toNat) : formatXK op (fieldX w) kk = w := by
  apply BitVec.eq_of_toNat_eq
  rw [formatXK_toNat, ← hop, ← hkk, fieldOp_toNat, fieldX_val, fieldKk_toNat]
  omega

theorem formatXYN_of_fields {w : Word} {op n : BitVec 4} (hop : (fieldOp w).toNat = op.toNat)
    (hn : (fieldN w).toNat = n.toNat) : formatXYN op (fieldX w) (fieldY w) n = w := by
  apply BitVec.eq_of_toNat_eq
  rw [formatXYN_toNat, ← hop, ← hn, fieldOp_toNat, fieldX_val, fieldY_val, fieldN_toNat]
  omega

/-! ## From an instruction to its word and back (R75) -/

theorem formatA_injective (op : BitVec 4) : Function.Injective (formatA op) := fun a b h => by
  have hnnn := congrArg fieldNnn h
  rwa [fieldNnn_formatA, fieldNnn_formatA] at hnnn

/-- A word of the reserved row that is neither `00E0` nor `00EE` is SYS (R64, R69). -/
theorem decode_formatA_zero (nnn : BitVec 12) (hcls : nnn ≠ 0x0E0#12) (hret : nnn ≠ 0x0EE#12) :
    decode (formatA 0#4 nnn) = .ok (.sys nnn) := by
  have hcls' : formatA 0#4 nnn ≠ 0x00E0#16 := (formatA_injective 0#4).ne hcls
  have hret' : formatA 0#4 nnn ≠ 0x00EE#16 := (formatA_injective 0#4).ne hret
  simp [decode, decodeGroup0, hcls', hret']

/-- By format (R62): the fields of the format's word are the operands, and the fixed nibbles pick the branch. -/
theorem decode_encode (i : Instr) (hi : i.wellFormed = true) : decode (encode i) = .ok i := by
  cases i with
  | cls | ret => rfl
  | sys nnn =>
    obtain ⟨hcls, hret⟩ : nnn ≠ 0x0E0#12 ∧ nnn ≠ 0x0EE#12 := by simpa [Instr.wellFormed] using hi
    exact decode_formatA_zero nnn hcls hret
  | jp nnn | call nnn | ldI nnn | jpV0 nnn =>
    simp [encode, decode]
  | seByte x kk | sneByte x kk | ldByte x kk | addByte x kk | rnd x kk =>
    simp [encode, decode]
  | seReg x y | sneReg x y | drw x y n =>
    simp [encode, decode]
  | ldReg x y | or x y | and x y | xor x y | addReg x y | sub x y | shr x y | subn x y | shl x y =>
    simp [encode, decode, decodeGroup8]
  | skp x | sknp x =>
    simp [encode, decode, decodeGroupE]
  | ldVxDt x | ldVxK x | ldDtVx x | ldStVx x | addI x | ldF x | ldB x | storeRegs x | loadRegs x =>
    simp [encode, decode, decodeGroupF]

/-- The decoder takes the two bytes of an instruction and leaves the rest of the string (R60). -/
theorem decodeBytes_encodeBytes_append (i : Instr) (hi : i.wellFormed = true) (rest : List Byte) :
    decodeBytes (encodeBytes i ++ rest) = .ok (i, rest) := by
  have hword : decodeBytes (encodeBytes i ++ rest) =
      (decode (joinBytes (highByte (encode i)) (lowByte (encode i)))).map fun i => (i, rest) := rfl
  rw [hword, joinBytes_high_low, decode_encode i hi]
  rfl

/-- Settles O1: each field of the instruction's word is the operand that the format put there. -/
theorem decodeOfEncode : Obligations.DecodeOfEncode := fun i hi =>
  ⟨decode_encode i hi, decodeBytes_encodeBytes_append i hi⟩

/-- Settles O5: the decoder run on each word. -/
theorem sampleWordsDecode : Obligations.SampleWordsDecode := by
  unfold Obligations.SampleWordsDecode
  decide

/-! ## From a word to its instruction and back -/

theorem encode_of_decodeGroup0 {w : Word} (hop : (fieldOp w).toNat = 0x0) :
    encode (decodeGroup0 w) = w ∧ (decodeGroup0 w).wellFormed = true := by
  have hw : formatA 0 (fieldNnn w) = w := formatA_of_fields hop
  unfold decodeGroup0
  split_ifs with hcls hret
  · exact ⟨hcls.symm, rfl⟩
  · exact ⟨hret.symm, rfl⟩
  · have hcls' : fieldNnn w ≠ 0x0E0#12 := fun h => hcls (hw.symm.trans (congrArg (formatA 0) h))
    have hret' : fieldNnn w ≠ 0x0EE#12 := fun h => hret (hw.symm.trans (congrArg (formatA 0) h))
    exact ⟨hw, by simp [Instr.wellFormed, hcls', hret']⟩

theorem encode_of_decodeGroup8 {w : Word} {i : Instr} (hop : (fieldOp w).toNat = 0x8) (h : decodeGroup8 w = .ok i) :
    encode i = w ∧ i.wellFormed = true := by
  unfold decodeGroup8 at h
  split at h <;> cases h
  all_goals exact ⟨formatXYN_of_fields hop ‹_›, rfl⟩

theorem encode_of_decodeGroupE {w : Word} {i : Instr} (hop : (fieldOp w).toNat = 0xE) (h : decodeGroupE w = .ok i) :
    encode i = w ∧ i.wellFormed = true := by
  unfold decodeGroupE at h
  split at h <;> cases h
  all_goals exact ⟨formatXK_of_fields hop ‹_›, rfl⟩

theorem encode_of_decodeGroupF {w : Word} {i : Instr} (hop : (fieldOp w).toNat = 0xF) (h : decodeGroupF w = .ok i) :
    encode i = w ∧ i.wellFormed = true := by
  unfold decodeGroupF at h
  split at h <;> cases h
  all_goals exact ⟨formatXK_of_fields hop ‹_›, rfl⟩

/-- By the decoder's branches: `h_k` is the one of first nibble `k - 1`, grouped here by format (R62). -/
theorem encode_of_decode {w : Word} {i : Instr} (h : decode w = .ok i) : encode i = w ∧ i.wellFormed = true := by
  unfold decode at h
  split at h
  case h_1 hop =>
    cases h
    exact encode_of_decodeGroup0 hop
  case h_2 hop | h_3 hop | h_11 hop | h_12 hop =>
    cases h
    exact ⟨formatA_of_fields hop, rfl⟩
  case h_4 hop | h_5 hop | h_7 hop | h_8 hop | h_13 hop =>
    cases h
    exact ⟨formatXK_of_fields hop rfl, rfl⟩
  case h_6 hop | h_10 hop =>
    split_ifs at h with hn
    cases h
    exact ⟨formatXYN_of_fields hop (congrArg BitVec.toNat hn), rfl⟩
  case h_14 hop =>
    cases h
    exact ⟨formatXYN_of_fields hop rfl, rfl⟩
  case h_9 hop => exact encode_of_decodeGroup8 hop h
  case h_15 hop => exact encode_of_decodeGroupE hop h
  case h_16 =>
    have hop : (fieldOp w).toNat = 0xF := by
      have := (fieldOp w).isLt
      simp only [imp_false] at *
      omega
    exact encode_of_decodeGroupF hop h

/-- Settles O2: in each branch the word is its format's word of its own fields. -/
theorem encodeOfDecode : Obligations.EncodeOfDecode := fun _ _ => encode_of_decode

theorem decode_eq_ok_iff {w : Word} {i : Instr} : decode w = .ok i ↔ encode i = w ∧ i.wellFormed = true :=
  ⟨encode_of_decode, fun ⟨hw, hi⟩ => hw ▸ decode_encode i hi⟩

/-! ## The words that are no instruction (R67, R68) -/

theorem decodeGroup8_rejects_iff (w : Word) :
    (∃ e, decodeGroup8 w = .error e) ↔ w.toNat % 16 ∈ [0x8, 0x9, 0xA, 0xB, 0xC, 0xD, 0xF] := by
  unfold decodeGroup8
  rw [fieldN_toNat]
  split
  case h_10 =>
    simp only [imp_false, Except.error.injEq, exists_eq', true_iff, List.mem_cons, List.not_mem_nil, or_false] at *
    omega
  all_goals simp [*]

theorem decodeGroupE_rejects_iff (w : Word) : (∃ e, decodeGroupE w = .error e) ↔ w.toNat % 256 ∉ [0x9E, 0xA1] := by
  unfold decodeGroupE
  rw [fieldKk_toNat]
  split <;> simp_all

theorem decodeGroupF_rejects_iff (w : Word) :
    (∃ e, decodeGroupF w = .error e) ↔
      w.toNat % 256 ∉ [0x07, 0x0A, 0x15, 0x18, 0x1E, 0x29, 0x33, 0x55, 0x65] := by
  unfold decodeGroupF
  rw [fieldKk_toNat]
  split <;> simp_all

theorem exists_ite_error_iff {p : Prop} [Decidable p] (i : Instr) (r : Reject) :
    (∃ e, (if p then .ok i else .error r : Except Reject Instr) = .error e) ↔ ¬ p := by
  split_ifs with h <;> simp [h]

theorem fieldN_eq_zero_iff (w : Word) : fieldN w = 0#4 ↔ w.toNat % 16 = 0 := by
  rw [← BitVec.toNat_inj, fieldN_toNat]
  rfl

/-- Nibbles 5, 8, 9, E and F (`h_6`, `h_9`, `h_10`, `h_15`, `h_16`) can reject; no other does (R68). -/
theorem decode_rejects_iff (w : Word) :
    (∃ e, decode w = .error e) ↔
      (w.toNat / 4096 = 0x5 ∧ w.toNat % 16 ≠ 0) ∨ (w.toNat / 4096 = 0x9 ∧ w.toNat % 16 ≠ 0) ∨
      (w.toNat / 4096 = 0x8 ∧ w.toNat % 16 ∈ [0x8, 0x9, 0xA, 0xB, 0xC, 0xD, 0xF]) ∨
      (w.toNat / 4096 = 0xE ∧ w.toNat % 256 ∉ [0x9E, 0xA1]) ∨
      (w.toNat / 4096 = 0xF ∧ w.toNat % 256 ∉ [0x07, 0x0A, 0x15, 0x18, 0x1E, 0x29, 0x33, 0x55, 0x65]) := by
  unfold decode
  rw [fieldOp_toNat]
  split
  case h_6 hop | h_10 hop => simp [hop, exists_ite_error_iff, fieldN_eq_zero_iff]
  case h_9 hop => simp [hop, decodeGroup8_rejects_iff]
  case h_15 hop => simp [hop, decodeGroupE_rejects_iff]
  case h_16 =>
    have hop : w.toNat / 4096 = 0xF := by
      have := w.isLt
      simp only [imp_false] at *
      omega
    simp [hop, decodeGroupF_rejects_iff]
  all_goals simp [*]

theorem Instr.wellFormed_sys_iff (nnn : BitVec 12) :
    (Instr.sys nnn).wellFormed = true ↔ nnn.toNat ≠ 0x0E0 ∧ nnn.toNat ≠ 0x0EE := by
  simp [Instr.wellFormed, ← BitVec.toNat_inj]

/-- The words of the reserved row (R67, R69). -/
theorem decode_sys_iff (w : Word) :
    (∃ nnn, decode w = .ok (.sys nnn)) ↔ w.toNat / 4096 = 0x0 ∧ w.toNat ≠ 0x00E0 ∧ w.toNat ≠ 0x00EE := by
  simp only [decode_eq_ok_iff, Instr.wellFormed_sys_iff]
  constructor
  · rintro ⟨nnn, rfl, hcls, hret⟩
    have hw : (encode (.sys nnn)).toNat = 0 * 4096 + nnn.toNat := formatA_toNat 0x0 nnn
    omega
  · rintro ⟨hop, hcls, hret⟩
    refine ⟨fieldNnn w, formatA_of_fields ((fieldOp_toNat w).trans hop), ?_⟩
    rw [fieldNnn_toNat]
    omega

/-- Settles O4: the rejects group by group, and SYS by the two round trips. -/
theorem rejectedWordsAreThoseListed : Obligations.RejectedWordsAreThoseListed := fun w =>
  ⟨decode_rejects_iff w, decode_sys_iff w⟩

/-! ## The rows of the opcode map (R64, R66) -/

/-- The row number, in R66, of what the decoder answers; none for a reject. -/
def rowOf (d : Except Reject Instr) : Option Nat := d.toOption.map Instr.rowNumber

/-- A selected word agrees with the row's pattern on every field that the mask covers. -/
theorem Row.selects_slice {r : Row} {w : Word} (h : r.selects w = true) (lo len : Nat)
    (hmask : r.mask.extractLsb' lo len = BitVec.allOnes len) :
    w.extractLsb' lo len = r.pattern.extractLsb' lo len := by
  have hw : w &&& r.mask = r.pattern := beq_iff_eq.mp h
  rw [← hw, BitVec.extractLsb'_and, hmask, BitVec.and_allOnes]

theorem opcodeMap_masks_op : ∀ r ∈ opcodeMap, fieldOp r.mask = BitVec.allOnes 4 := by decide

theorem opcodeMap_masks_n :
    ∀ r ∈ opcodeMap, (fieldOp r.pattern).toNat ∈ [0x5, 0x8, 0x9] → fieldN r.mask = BitVec.allOnes 4 := by decide

theorem opcodeMap_masks_kk :
    ∀ r ∈ opcodeMap, (fieldOp r.pattern).toNat ∈ [0xE, 0xF] → fieldKk r.mask = BitVec.allOnes 8 := by decide

/-- CLS and RET fix the whole word; the reserved row's pattern is the word 0 (R66 rows 1 to 3). -/
theorem opcodeMap_group0 :
    ∀ r ∈ opcodeMap, (fieldOp r.pattern).toNat = 0x0 → r.mask = BitVec.allOnes 16 ∨ r.pattern = 0#16 := by decide

theorem rowOf_decode_pattern : ∀ r ∈ opcodeMap, rowOf (decode r.pattern) = some r.number := by decide

theorem rowOf_decodeGroup8_congr {w v : Word} (h : fieldN w = fieldN v) :
    rowOf (decodeGroup8 w) = rowOf (decodeGroup8 v) := by
  unfold decodeGroup8
  rw [h]
  split <;> rfl

theorem rowOf_decodeGroupE_congr {w v : Word} (h : fieldKk w = fieldKk v) :
    rowOf (decodeGroupE w) = rowOf (decodeGroupE v) := by
  unfold decodeGroupE
  rw [h]
  split <;> rfl

theorem rowOf_decodeGroupF_congr {w v : Word} (h : fieldKk w = fieldKk v) :
    rowOf (decodeGroupF w) = rowOf (decodeGroupF v) := by
  unfold decodeGroupF
  rw [h]
  split <;> rfl

/-- Which row the decoder takes depends on the nibbles of R67 alone: the first, and in the groups the last nibble or the low
byte. -/
theorem rowOf_decode_congr {w v : Word} (hop : fieldOp w = fieldOp v)
    (h0 : (fieldOp v).toNat = 0x0 → (decodeGroup0 w).rowNumber = (decodeGroup0 v).rowNumber)
    (hn : (fieldOp v).toNat ∈ [0x5, 0x8, 0x9] → fieldN w = fieldN v)
    (hkk : (fieldOp v).toNat ∈ [0xE, 0xF] → fieldKk w = fieldKk v) : rowOf (decode w) = rowOf (decode v) := by
  unfold decode
  rw [hop]
  split
  case h_1 h => exact congrArg some (h0 h)
  case h_6 h | h_10 h =>
    rw [hn (by simp [h])]
    split <;> rfl
  case h_9 h => exact rowOf_decodeGroup8_congr (hn (by simp [h]))
  case h_15 h => exact rowOf_decodeGroupE_congr (hkk (by simp [h]))
  case h_16 =>
    have h : (fieldOp v).toNat = 0xF := by
      have := (fieldOp v).isLt
      simp only [imp_false] at *
      omega
    exact rowOf_decodeGroupF_congr (hkk (by simp [h]))
  all_goals rfl

theorem decodeGroup0_rowNumber {w : Word} (hcls : w ≠ 0x00E0#16) (hret : w ≠ 0x00EE#16) :
    (decodeGroup0 w).rowNumber = 3 := by
  rw [decodeGroup0, if_neg hcls, if_neg hret]
  rfl

/-- A row that selects a word is the row that the decoder takes, unless the word is CLS's or RET's, which the reserved row
selects too (R64). -/
theorem rowOf_decode_of_selects {w : Word} {r : Row} (hr : r ∈ opcodeMap) (hsel : r.selects w = true)
    (hcls : w ≠ 0x00E0#16) (hret : w ≠ 0x00EE#16) : rowOf (decode w) = some r.number := by
  rw [← rowOf_decode_pattern r hr]
  apply rowOf_decode_congr (Row.selects_slice hsel 12 4 (opcodeMap_masks_op r hr))
  · intro h
    obtain hmask | hpat := opcodeMap_group0 r hr h
    · have hw : w &&& r.mask = r.pattern := beq_iff_eq.mp hsel
      rw [← hw, hmask, BitVec.and_allOnes]
    · rw [hpat, decodeGroup0_rowNumber hcls hret]
      rfl
  · exact fun h => Row.selects_slice hsel 0 4 (opcodeMap_masks_n r hr h)
  · exact fun h => Row.selects_slice hsel 0 8 (opcodeMap_masks_kk r hr h)

theorem firstRow_selects {w : Word} {r : Row} (h : firstRow w = some r) : r ∈ opcodeMap ∧ r.selects w = true := by
  unfold firstRow at h
  have hsel := List.find?_some h
  exact ⟨List.mem_of_find?_eq_some h, hsel⟩

theorem rowOf_decode_of_firstRow {w : Word} {r : Row} (h : firstRow w = some r) : rowOf (decode w) = some r.number := by
  by_cases hcls : w = 0x00E0#16
  · subst hcls
    obtain rfl : (⟨1, 0x00E0, 0xFFFF⟩ : Row) = r := Option.some.inj h
    rfl
  by_cases hret : w = 0x00EE#16
  · subst hret
    obtain rfl : (⟨2, 0x00EE, 0xFFFF⟩ : Row) = r := Option.some.inj h
    rfl
  obtain ⟨hr, hsel⟩ := firstRow_selects h
  exact rowOf_decode_of_selects hr hsel hcls hret

/-- The per-instruction lemmas, gathered. -/
theorem rowMatches : ∀ i : Instr, RowMatches.Statement i
  | .cls => RowMatches.cls
  | .ret => RowMatches.ret
  | .sys nnn => RowMatches.sys nnn
  | .jp nnn => RowMatches.jp nnn
  | .call nnn => RowMatches.call nnn
  | .seByte x kk => RowMatches.seByte x kk
  | .sneByte x kk => RowMatches.sneByte x kk
  | .seReg x y => RowMatches.seReg x y
  | .ldByte x kk => RowMatches.ldByte x kk
  | .addByte x kk => RowMatches.addByte x kk
  | .ldReg x y => RowMatches.ldReg x y
  | .or x y => RowMatches.or x y
  | .and x y => RowMatches.and x y
  | .xor x y => RowMatches.xor x y
  | .addReg x y => RowMatches.addReg x y
  | .sub x y => RowMatches.sub x y
  | .shr x y => RowMatches.shr x y
  | .subn x y => RowMatches.subn x y
  | .shl x y => RowMatches.shl x y
  | .sneReg x y => RowMatches.sneReg x y
  | .ldI nnn => RowMatches.ldI nnn
  | .jpV0 nnn => RowMatches.jpV0 nnn
  | .rnd x kk => RowMatches.rnd x kk
  | .drw x y n => RowMatches.drw x y n
  | .skp x => RowMatches.skp x
  | .sknp x => RowMatches.sknp x
  | .ldVxDt x => RowMatches.ldVxDt x
  | .ldVxK x => RowMatches.ldVxK x
  | .ldDtVx x => RowMatches.ldDtVx x
  | .ldStVx x => RowMatches.ldStVx x
  | .addI x => RowMatches.addI x
  | .ldF x => RowMatches.ldF x
  | .ldB x => RowMatches.ldB x
  | .storeRegs x => RowMatches.storeRegs x
  | .loadRegs x => RowMatches.loadRegs x

theorem firstRow_of_decode {w : Word} {i : Instr} (h : decode w = .ok i) : ∃ r, firstRow w = some r := by
  obtain ⟨rfl, hi⟩ := encode_of_decode h
  obtain ⟨r, hr, -, hsel⟩ := rowMatches i hi
  exact Option.isSome_iff_exists.mp (List.find?_isSome.mpr ⟨r, hr, hsel⟩)

/-- Settles O3: a decoded word is its instruction's, so some row selects it; and the first row that selects a word is the
one the decoder takes. -/
theorem decodeTakesFirstMatchingRow : Obligations.DecodeTakesFirstMatchingRow := by
  intro w
  cases hd : decode w with
  | ok i =>
    obtain ⟨r, hr⟩ := firstRow_of_decode hd
    have hrow := rowOf_decode_of_firstRow hr
    rw [hd] at hrow
    exact ⟨r, hr, (Option.some.inj hrow).symm⟩
  | error e =>
    cases hr : firstRow w with
    | none => rfl
    | some r =>
      have hrow := rowOf_decode_of_firstRow hr
      rw [hd] at hrow
      cases hrow

end Sys2Proof

/-! # The execution engine (spec/40_execution_engine.md R82 to R94)

A Step event fetches, decodes and runs one instruction, and a Step that halts changes the mode alone; what an
instruction leaves in pc is `State.pcAfter`. -/

namespace Sys2Proof.Machine

section Engine

variable {i : Instr} {s t : State} {c : Cause}

/-! ## The Step event by mode and pc -/

/-- A fetch below 4095 that decodes: the step runs the instruction (R83 to R85). -/
theorem State.aboutToRun_of_pc_le (hn : s.nextInput = .step) (hm : s.mode = .running) (hpc : s.pc.toNat ≤ 4094)
    (hd : decode (s.mem.read s.pc.toNat ++ s.mem.read (s.pc.toNat + 1)) = .ok i) : s.aboutToRun i :=
  ⟨hn, hm, _, s.fetch_eq.trans (if_pos hpc), hd⟩

theorem State.fetch_of_lt_pc (h : 4094 < s.pc.toNat) : s.fetch = none :=
  s.fetch_eq.trans (if_neg (Nat.not_le_of_lt h))

/-- Settles O6: at such a pc the fetch gives the word, and the step is the decoded instruction's meaning. -/
theorem stepRunsDecodedInstruction : Obligations.StepRunsDecodedInstruction := fun _ _ hn hm hpc hd =>
  step_of_aboutToRun (State.aboutToRun_of_pc_le hn hm hpc hd)

/-- Settles O7: above 4094 the fetch gives no word. -/
theorem fetchAboveMemoryHalts : Obligations.FetchAboveMemoryHalts := fun s hn hm hpc =>
  (step_of_step s hn).trans (stepEvent_of_unfetched s.atStep hm (State.fetch_of_lt_pc (s := s.atStep) hpc))

/-- Settles O9: the Step event looks at the mode first. -/
theorem stepOutsideRunningChangesNothing : Obligations.StepOutsideRunningChangesNothing := fun s hn hm =>
  (step_of_step s hn).trans (stepEvent_of_ne_running s.atStep hm)

/-! ## Execute-time checks (R89) -/

/-- Settles O13: SYS fails always, and each other check is the one its instruction makes before it writes. -/
theorem failedCheckRaisesItsCause : Obligations.FailedCheckRaisesItsCause := fun _ _ => exec_of_not_executes

/-- Settles O14: completion with the frame, which leaves the mode to LD Vx, K alone. -/
theorem passedCheckCompletes : Obligations.PassedCheckCompletes := by
  intro i s he
  by_cases hi : ∃ x, i = .ldVxK x
  · obtain ⟨x, rfl⟩ := hi
    exact ⟨_, rfl, .inr ⟨x, rfl, rfl⟩⟩
  · obtain ⟨t, hx, hf, -⟩ := Completes.of_executes he
    exact ⟨t, hx, .inl ⟨hf.mode hi, not_exists.1 hi⟩⟩

/-! ## Precision of a fatal condition (R87, R208) -/

/-- A halted next state names its own cause. -/
theorem eq_setMode_of_raise {c' : Cause} (h : Host.Outcome.next (s.setMode (.halted c')) = (.next t : Result))
    (hc : t.mode = .halted c) : t = s.setMode (.halted c) := by
  obtain rfl := Host.Outcome.next.inj h
  cases hc
  rfl

/-- An instruction that passes its check does not halt, so one that halts has failed it. -/
theorem exec_halts_precisely (hm : s.mode = .running) (hx : exec i s = .next t) (hc : t.mode = .halted c) :
    t = s.setMode (.halted c) := by
  by_cases he : Executes i s
  · obtain hsame | ⟨x, -, hwait⟩ := mode_of_executes he hx
    · cases hc.symm.trans (hsame.trans hm)
    · cases hc.symm.trans hwait
  · exact eq_setMode_of_raise ((exec_of_not_executes he).symm.trans hx) hc

/-- A Step event that halts does so at its fetch, its decode or its execution, and changes the mode alone. -/
theorem stepEvent_halts_precisely (hm : s.mode = .running) (ht : stepEvent s = .next t) (hc : t.mode = .halted c) :
    t = s.setMode (.halted c) := by
  obtain ⟨hne, -⟩ | ⟨-, -, e⟩ | ⟨-, -, -, -, -, e⟩ | ⟨-, -, i, -, -, e⟩ := stepEvent_cases s
  · exact absurd hm hne
  · exact eq_setMode_of_raise (e.symm.trans ht) hc
  · exact eq_setMode_of_raise (e.symm.trans ht) hc
  · exact exec_halts_precisely hm (e.symm.trans ht) hc

/-- Settles O12: around the Step event a step only takes the Step off the list and ends the load phase. -/
theorem fatalStepIsPrecise : Obligations.FatalStepIsPrecise := fun s _ _ hn hm ht hc =>
  stepEvent_halts_precisely (s := s.atStep) hm ((step_of_step s hn).symm.trans ht) hc

/-! ## The program counter (R14, R88) -/

theorem exec_pc_of_not_executes (he : ¬ Executes i s) (hx : exec i s = .next t) : t.pc = s.pc := by
  obtain rfl := next_unique (exec_of_not_executes he) hx
  rfl

/-- `nnn + V[0]` in 16 bits is the sum of the natural numbers (R109). -/
theorem addressOperand_add_wideV_toNat (nnn : BitVec 12) (s : State) (r : Reg) :
    (addressOperand nnn + s.wideV r).toNat = nnn.toNat + (s.getV r).toNat := by
  have ha := nnn.isLt
  have hv := (s.getV r).isLt
  rw [BitVec.toNat_add, addressOperand_toNat, s.wideV_toNat]
  omega

/-- The latch bit that SKP and SKNP read is the key of that number (R160). -/
theorem State.keys_getLsbD_getV (s : State) (x k : Reg) (h : k.val = (s.getV x).toNat) :
    s.keys.getLsbD (s.getV x).toNat = s.key k := h ▸ rfl

theorem pc_of_tick_or_keyPoll (ht : StepTo s t) (h : s.nextInput = .tick ∨ ∃ k, s.nextInput = .keyPoll k) :
    t.pc = s.pc := by
  cases ht with
  | ignored | ticked | latched | delivered => rfl
  | reset hn | loaded a b hn | idle hn | unfetched hn | undecoded w e hn => simp [hn] at h
  | failed i hi | completed i _ hi => simp [hi.nextInput_eq] at h

/-- Settles O15: the four clauses are `State.pcAfter`, a failed check, the precise halt, and the two events. -/
theorem programCounterOutcome : Obligations.ProgramCounterOutcome := by
  refine ⟨fun i s t he hx => ?_, fun _ _ _ => exec_pc_of_not_executes, fun s t c hn hm ht hc => ?_,
    fun _ _ hn ht => pc_of_tick_or_keyPoll (stepTo_of_step ht) hn⟩
  · obtain ⟨-, hpc⟩ := frame_of_executes he hx
    cases i with
    | jp nnn | call nnn => exact (congrArg BitVec.toNat hpc).trans (addressOperand_toNat nnn)
    | jpV0 nnn => exact (congrArg BitVec.toNat hpc).trans (addressOperand_add_wideV_toNat nnn s 0)
    | ret =>
      intro j hj
      have htop : j = ⟨s.sp.val - 1, by omega⟩ := Fin.ext (Nat.eq_sub_of_add_eq hj)
      exact hpc.trans (congrArg s.stackEntry htop.symm)
    | seByte | sneByte | seReg | sneReg => simpa [State.pcAfter] using hpc
    | skp x | sknp x =>
      intro k hk
      simpa [State.pcAfter, s.keys_getLsbD_getV x k hk] using hpc
    | _ => exact hpc
  · rw [fatalStepIsPrecise s t c hn hm ht hc]
    rfl

/-! ## The loader port (R93, R94) -/

theorem exec_keeps_loadPhase (hx : exec i s = .next t) : t.loadPhase = s.loadPhase := by
  by_cases he : Executes i s
  · obtain ⟨hf, -⟩ := frame_of_executes he hx
    exact hf.host.2
  · obtain rfl := next_unique (exec_of_not_executes he) hx
    rfl

/-- Of all inputs only Reset opens the load phase. -/
theorem loadPhase_of_stepTo (ht : StepTo s t) (h : s.nextInput = .step ∨ s.loadPhase = false)
    (hr : s.nextInput ≠ .reset) : t.loadPhase = false := by
  cases ht with
  | reset hn => exact absurd hn hr
  | idle | unfetched | undecoded | failed => rfl
  | completed i _ _ _ hx => exact exec_keeps_loadPhase hx
  | ticked hn | latched k hn | delivered k x j hn | loaded a b hn => exact h.resolve_left (by simp [hn])
  | ignored c hn => exact h.resolve_left fun e => by simp [e] at hn

/-- A closed port refuses (log 5). -/
theorem loaderWriteEvent_of_closed (a : BitVec 12) (b : Byte) (h : s.loadPhase = false) :
    loaderWriteEvent a b s = .refused .loaderWriteAfterFirstStep := if_neg (by simp [h])

/-- Settles O30: a Step ends the load phase, only Reset opens it again, and a loader write looks at it first. -/
theorem loaderPortClosesAtFirstStep : Obligations.LoaderPortClosesAtFirstStep :=
  ⟨fun _ _ hn ht => loadPhase_of_stepTo (stepTo_of_step ht) (.inl hn) (by simp [hn]),
    fun _ _ hl hr ht => loadPhase_of_stepTo (stepTo_of_step ht) (.inr hl) hr,
    fun s a b hl hn => (step_of_loaderWrite s a b hn).trans (loaderWriteEvent_of_closed a b hl)⟩

end Engine

end Sys2Proof.Machine

/-! # Control flow (spec/41_control_flow.md R101 to R109)

What each instruction leaves in pc is `State.pcAfter`, and its frame comes with its completion. The rest is the call
stack: the entry that CALL pushes is the one that RET pops. -/

namespace Sys2Proof.Machine

section ControlFlow

variable {s t : State}

/-! ## The call stack (R102, R104) -/

/-- The newest of j + 1 valid entries is entry j (R18). -/
theorem exec_ret_of_succ (j : Fin 16) (h : j.val + 1 = s.sp.val) :
    exec .ret s = .next ((s.setSp j.castSucc).setPc (s.stackEntry j)) := by
  have htop : j.val = s.sp.val - 1 := Nat.eq_sub_of_add_eq h
  rw [exec_ret_of_pos s (h ▸ j.val.succ_pos)]
  simp only [← htop]
  rfl

/-- Settles O36: RET pops the entry below sp, and on an empty stack it fails its one check. -/
theorem retPopsIntoPc : Obligations.RetPopsIntoPc := by
  refine fun s => ⟨fun j hj => ?_, fun h => exec_of_not_executes (i := .ret) h.not_gt⟩
  exact ⟨_, exec_ret_of_succ j hj, rfl, rfl, ((Frame.refl .ret s).setSp (.inl rfl) _).setPc _⟩

/-- Settles O38: CALL pushes into the entry at sp and moves pc; on a full stack it fails its one check. -/
theorem callPushesReturnAddress : Obligations.CallPushesReturnAddress := by
  refine fun nnn s => ⟨fun j hj => ?_, fun h => exec_of_not_executes (i := .call nnn) h.not_lt⟩
  have he : Executes (.call nnn) s := hj.symm.trans_lt j.isLt
  have hx := exec_call_of_lt nnn s he
  obtain ⟨hf, hpc⟩ := frame_of_executes he hx
  refine ⟨_, hx, ?_, congrArg Nat.succ hj.symm, ?_, hf⟩
  · simp [Fin.ext_iff, hj]
  · exact (congrArg BitVec.toNat hpc).trans (addressOperand_toNat nnn)

theorem State.sameButDeadEntries_setStackEntry (s : State) (j : Fin 16) (w : Word) (hj : s.sp.val ≤ j.val) :
    s.sameButDeadEntries (s.setStackEntry j w) := by
  refine ⟨fun k hk => ?_, rfl⟩
  have hne : k ≠ j := fun e => hk.not_ge (e ▸ hj)
  rw [State.setStackEntry_stackEntry, if_neg hne]

/-- RET after CALL leaves of the two only the return address, in pc and in the entry at sp. -/
theorem exec_ret_of_exec_call (nnn : BitVec 12) (h : s.sp.val < 16) (hx : exec (.call nnn) s = .next t) :
    exec .ret t = .next ((s.setPc (s.pc + 2)).setStackEntry ⟨s.sp.val, h⟩ (s.pc + 2)) := by
  obtain rfl := next_unique (exec_call_of_lt nnn s h) hx
  rw [exec_ret_of_succ ⟨s.sp.val, h⟩ rfl, State.setPc_stackEntry, State.setSp_stackEntry,
    State.setStackEntry_stackEntry, if_pos rfl]
  rfl

/-- Settles O39: the pair writes only pc and the entry at sp, which is dead before and after. -/
theorem callThenRetReturns : Obligations.CallThenRetReturns := fun nnn s _ h hx =>
  ⟨_, exec_ret_of_exec_call nnn h hx, rfl, (s.setPc (s.pc + 2)).sameButDeadEntries_setStackEntry ⟨s.sp.val, h⟩ _ le_rfl⟩

/-! ## Jumps, skips and SYS (R101, R103, R105 to R109) -/

/-- Settles O37: both targets keep their value in 16 bits. -/
theorem jumpsReplacePc : Obligations.JumpsReplacePc := fun nnn s =>
  ⟨⟨_, rfl, addressOperand_toNat nnn, (Frame.refl _ s).setPc _⟩,
    _, rfl, addressOperand_add_wideV_toNat nnn s 0, (Frame.refl _ s).setPc _⟩

/-- A skip changes pc alone, by 4 under its condition and by 2 otherwise (R88). -/
theorem State.skipIf_completes {i : Instr} (s : State) (c : Bool) {d : Word} (hx : exec i s = .next (s.skipIf c))
    (hd : (if c then 4 else 2) = d) : ∃ t, exec i s = .next t ∧ t.pc = s.pc + d ∧ Frame i s t :=
  ⟨_, hx, congrArg (s.pc + ·) hd, (Frame.refl i s).setPc _⟩

/-- Settles O40: the Boolean test of each skip, read as the equality of the statement. -/
theorem registerSkips : Obligations.RegisterSkips := by
  refine fun x y kk s => ⟨s.skipIf_completes _ rfl ?_, s.skipIf_completes _ rfl ?_, s.skipIf_completes _ rfl ?_,
    s.skipIf_completes _ rfl ?_⟩
  · simp only [beq_iff_eq]
  · simp only [bne_iff_ne, ne_eq, ite_not]
  · simp only [beq_iff_eq]
  · simp only [bne_iff_ne, ne_eq, ite_not]

/-- Settles O41: SYS has no check to pass. -/
theorem sysIsFatal : Obligations.SysIsFatal := fun nnn _ => exec_of_not_executes (i := .sys nnn) id

end ControlFlow

end Sys2Proof.Machine

/-! # Immediates, I and the random byte (spec/42_immediate_index_random.md R120 to R123, spec/43_alu.md R131)

But for LD I, nnn each of these writes one register and goes to the next instruction; RND has drawn a byte before. -/

namespace Sys2Proof.Machine

section ImmediateIndexRandom

variable {i : Instr} {s t : State}

theorem State.setV_advance_getV (s : State) (x : Reg) (b : Byte) : (s.setV x b).advance.getV x = b := by
  rw [State.advance_eq, State.setPc_getV, State.setV_getV, if_pos rfl]

theorem Frame.setV_advance {x : Reg} {b : Byte} (h : Frame i s t) (hx : writesDestination i x) :
    Frame i s (t.setV x b).advance :=
  (h.setV (.inl hx) b).setPc _

/-- V[15] as a bystander: neither the flag nor the destination (R11, R12). -/
theorem Frame.flagReg (h : Frame i s t) (hf : ¬ writesFlag i) (hd : ¬ writesDestination i 15) : t.getV 15 = s.getV 15 :=
  h.v 15 (not_or.mpr ⟨hd, fun hw => hf hw.1⟩)

/-- Settles O43: the sum of two bytes wraps, and V[15] is written only as the destination. -/
theorem addByteWrapsWithoutFlag : Obligations.AddByteWrapsWithoutFlag := by
  intro x kk s
  have hf : Frame (.addByte x kk) s (s.setV x (s.getV x + kk)).advance := .setV_advance (.refl _ s) rfl
  refine ⟨_, rfl, ?_, fun hx => hf.flagReg id hx.symm, rfl, hf⟩
  rw [State.setV_advance_getV, BitVec.toNat_add]

/-- Settles O42: two registers loaded, and I with an address that keeps its value in 16 bits. -/
theorem plainLoads : Obligations.PlainLoads := fun x y _ nnn s =>
  ⟨⟨_, rfl, s.setV_advance_getV x _, rfl, .setV_advance (.refl _ s) rfl⟩,
    ⟨_, rfl, s.setV_advance_getV x (s.getV y), rfl, .setV_advance (.refl _ s) rfl⟩,
    _, rfl, addressOperand_toNat nnn, rfl, ((Frame.refl (.ldI nnn) s).setI trivial _).setPc _⟩

/-- Settles O44: no bit outside the mask survives the AND, whatever byte was drawn. -/
theorem rndWritesMaskedDraw : Obligations.RndWritesMaskedDraw := by
  intro x kk s
  have hv := s.drawByte.2.setV_advance_getV x (s.drawByte.1 &&& kk)
  refine ⟨_, rfl, hv, ?_, rfl, rfl, ((Frame.refl _ s).setDraws ⟨x, kk, rfl⟩ _).setV_advance rfl⟩
  rw [hv, BitVec.and_assoc, BitVec.and_not_self]
  exact BitVec.and_zero

end ImmediateIndexRandom

end Sys2Proof.Machine

/-! # The register ALU (spec/43_alu.md R130 to R139)

Each of these goes to the next instruction. OR, AND and XOR write one register; the other five write the flag to V[15]
and then the result to V[x]. -/

namespace Sys2Proof.Machine

section RegisterAlu

variable {i : Instr}

/-! ## Bitwise operations (R132 to R134) -/

/-- Settles O45: each operation is its Boolean one bit by bit, and V[x] is the one register written. -/
theorem logicOperations : Obligations.LogicOperations := by
  refine fun x y s => ⟨⟨_, rfl, fun b _ => ?_, rfl, .setV_advance (.refl _ s) rfl⟩,
    ⟨_, rfl, fun b _ => ?_, rfl, .setV_advance (.refl _ s) rfl⟩,
    ⟨_, rfl, fun b _ => ?_, rfl, .setV_advance (.refl _ s) rfl⟩⟩
  · rw [State.setV_advance_getV, BitVec.getLsbD_or]
  · rw [State.setV_advance_getV, BitVec.getLsbD_and]
  · rw [State.setV_advance_getV, BitVec.getLsbD_xor]

/-! ## Flag first, destination second (R86, R130) -/

/-- The result remains also for x = 15 (D11). -/
theorem State.setFlagThenV_advance_getV_destination (s : State) (f : Byte) (x : Reg) (b : Byte) :
    (s.setFlagThenV f x b).advance.getV x = b :=
  (s.setV 15 f).setV_advance_getV x b

theorem State.setFlagThenV_advance_getV_flag (s : State) (f b : Byte) {x : Reg} (hx : x ≠ 15) :
    (s.setFlagThenV f x b).advance.getV 15 = f := by
  rw [State.advance_eq, State.setPc_getV, State.setFlagThenV_eq, State.setV_getV, if_neg hx.symm, State.setV_getV,
    if_pos rfl]

/-- What the five flag-writing instructions have in common (R130). -/
theorem State.setFlagThenV_completes (s : State) {x : Reg} {f b : Byte}
    (he : exec i s = .next (s.setFlagThenV f x b).advance) (hf : writesFlag i) (hd : writesDestination i x) :
    ∃ t, exec i s = .next t ∧ t.getV x = b ∧ (x ≠ 15 → t.getV 15 = f) ∧ t.pc = s.pc + 2 ∧ Frame i s t :=
  ⟨_, he, s.setFlagThenV_advance_getV_destination f x b, s.setFlagThenV_advance_getV_flag f b, rfl,
    ((Frame.refl i s).setFlagThenV hf hd f b).setPc _⟩

/-! ## Sum and differences (R135, R136, R138) -/

/-- Settles O46: bit 8 of the 9-bit sum is the carry. -/
theorem addRegWritesSumAndCarry : Obligations.AddRegWritesSumAndCarry := by
  intro x y s
  obtain ⟨t, he, hv, hflag, hpc, hf⟩ := s.setFlagThenV_completes (i := .addReg x y) rfl trivial rfl
  refine ⟨t, he, ?_, fun hx => ?_, hpc, hf⟩
  · rw [hv, BitVec.toNat_add]
  · rw [hflag hx, carryFlag_toNat]

/-- A difference of bytes is the integer one, wrapped (R130). -/
theorem byte_sub_toNat (a b : Byte) : ((a - b).toNat : Int) = (a.toNat - b.toNat : Int) % 256 := by
  have hb := b.isLt
  rw [BitVec.toNat_sub]
  omega

/-- SUB and SUBN alike: the result is minuend minus subtrahend, the flag their not-borrow. -/
theorem State.subtract_completes (s : State) {x : Reg} {a b : Byte}
    (h : exec i s = .next (s.setFlagThenV (notBorrowFlag a b) x (a - b)).advance) (hw : writesFlag i)
    (hd : writesDestination i x) :
    ∃ t, exec i s = .next t ∧ ((t.getV x).toNat : Int) = (a.toNat - b.toNat : Int) % 256 ∧
      (x ≠ 15 → (t.getV 15).toNat = if b.toNat ≤ a.toNat then 1 else 0) ∧ t.pc = s.pc + 2 ∧ Frame i s t := by
  obtain ⟨t, he, hv, hflag, hpc, hf⟩ := s.setFlagThenV_completes h hw hd
  refine ⟨t, he, ?_, fun hx => ?_, hpc, hf⟩
  · rw [hv, byte_sub_toNat]
  · rw [hflag hx, notBorrowFlag_toNat]

/-- Settles O47: one subtraction, its operands exchanged for SUBN. -/
theorem subtractionsWriteDifferenceAndNotBorrow : Obligations.SubtractionsWriteDifferenceAndNotBorrow := fun _ _ s =>
  ⟨s.subtract_completes rfl trivial rfl, s.subtract_completes rfl trivial rfl⟩

/-! ## Shifts (R137, R139) -/

theorem byte_shiftRight_one_toNat (a : Byte) : (a >>> 1).toNat = a.toNat / 2 := by
  rw [BitVec.toNat_ushiftRight, Nat.shiftRight_eq_div_pow, pow_one]

theorem byte_shiftLeft_one_toNat (a : Byte) : (a <<< 1).toNat = 2 * a.toNat % 256 := by
  rw [BitVec.toNat_shiftLeft, Nat.shiftLeft_eq, pow_one, Nat.mul_comm]

/-- Settles O48: a shift by one is a halving or a doubling, of which the lowest or the highest bit goes to the flag. -/
theorem shiftsWriteResultAndBitShiftedOut : Obligations.ShiftsWriteResultAndBitShiftedOut := by
  intro x y s
  constructor
  · obtain ⟨t, he, hv, hflag, hpc, hf⟩ := s.setFlagThenV_completes (i := .shr x y) rfl trivial rfl
    refine ⟨t, he, ?_, fun hx => ?_, hpc, hf⟩
    · rw [hv, byte_shiftRight_one_toNat]
    · rw [hflag hx, shiftedOutLow_toNat]
  · obtain ⟨t, he, hv, hflag, hpc, hf⟩ := s.setFlagThenV_completes (i := .shl x y) rfl trivial rfl
    refine ⟨t, he, ?_, fun hx => ?_, hpc, hf⟩
    · rw [hv, byte_shiftLeft_one_toNat]
    · rw [hflag hx, shiftedOutHigh_toNat]

end RegisterAlu

end Sys2Proof.Machine

/-! # The display (spec/45_display.md R150 to R152)

What DRW leaves in a pixel and in V[15] depends on the pixels under its sprite alone; a draw that keeps V[x] and V[y]
leaves the sprite where it was. -/

namespace Sys2Proof.Machine

section Display

variable {x y : Reg} {n : BitVec 4} {s t : State}

/-- Settles O35: CLS completes in every state, on the cleared framebuffer. -/
theorem clsClearsEveryPixel : Obligations.ClsClearsEveryPixel := by
  intro s
  have hx : exec .cls s = .next (s.setFb Framebuffer.clear).advance := rfl
  obtain ⟨hf, hpc⟩ := frame_of_executes (i := .cls) trivial hx
  exact ⟨_, hx, Framebuffer.pixel_clear, hpc, hf⟩

/-! ## What one draw leaves (R151) -/

theorem exec_drw_of_executes (he : Executes (.drw x y n) s) :
    exec (.drw x y n) s =
      .next ((s.setFb (s.drawn x y n).1).setV 15 (flagByte (s.drawn x y n).2)).advance := by
  refine s.checkedAccess_ok (rowCount n) _ ?_
  simp only [Executes, rowCount] at he ⊢
  omega

theorem pixel_of_drw_off (he : Executes (.drw x y n) s) (hx : exec (.drw x y n) s = .next t) {row : Fin 32}
    {col : Fin 64} (h : ¬ s.spriteOn x y n row col) : t.pixel row col = s.pixel row col := by
  obtain ⟨hf, -⟩ := frame_of_executes he hx
  exact hf.pixels row col h

theorem pixel_of_drw_on (he : Executes (.drw x y n) s) (hx : exec (.drw x y n) s = .next t) {row : Fin 32}
    {col : Fin 64} (h : s.spriteOn x y n row col) : t.pixel row col = !s.pixel row col := by
  classical
  obtain rfl := next_unique (exec_drw_of_executes he) hx
  rw [State.advance_eq, State.setPc_pixel, State.setV_pixel, State.setFb_pixel, s.drawn_pixel x y n row col,
    decide_eq_true h, Bool.true_xor]

theorem flag_of_drw (he : Executes (.drw x y n) s) (hx : exec (.drw x y n) s = .next t) :
    t.getV 15 = flagByte (s.drawn x y n).2 := by
  obtain rfl := next_unique (exec_drw_of_executes he) hx
  exact State.setV_advance_getV _ 15 _

theorem flagByte_toNat_eq_zero_or_one (b : Bool) : (flagByte b).toNat = 0 ∨ (flagByte b).toNat = 1 := by
  cases b
  · exact .inl rfl
  · exact .inr rfl

theorem flagByte_toNat_eq_one_iff (b : Bool) : (flagByte b).toNat = 1 ↔ b = true := by
  simp [flagByte_toNat]

/-- The flag of DRW reports a 1-bit on a pixel that was ON. -/
theorem flag_of_drw_eq_one_iff (he : Executes (.drw x y n) s) (hx : exec (.drw x y n) s = .next t) :
    (t.getV 15).toNat = 1 ↔ ∃ row col, s.spriteOn x y n row col ∧ s.pixel row col = true := by
  rw [flag_of_drw he hx, flagByte_toNat_eq_one_iff, s.drawn_collision]

/-- Settles O49: the two cases of a pixel, the collision, and the failed range check. -/
theorem drwXorsSpriteAndReportsCollision : Obligations.DrwXorsSpriteAndReportsCollision := by
  refine fun x y n s => ⟨fun (he : Executes (.drw x y n) s) => ?_, exec_of_not_executes (i := .drw x y n)⟩
  have hx := exec_drw_of_executes he
  obtain ⟨hf, hpc⟩ := frame_of_executes he hx
  refine ⟨_, hx, fun _ _ => pixel_of_drw_on he hx, fun _ _ => pixel_of_drw_off he hx, ?_,
    flag_of_drw_eq_one_iff he hx, hpc, hf⟩
  rw [flag_of_drw he hx]
  exact flagByte_toNat_eq_zero_or_one _

/-! ## A second draw, and an empty sprite (R152) -/

/-- DRW writes neither I nor memory, so in the state after it the same DRW executes again. -/
theorem executes_after_drw (he : Executes (.drw x y n) s) (hx : exec (.drw x y n) s = .next t) :
    Executes (.drw x y n) t := by
  obtain ⟨hf, -⟩ := frame_of_executes he hx
  rwa [Executes, hf.index id]

/-- A draw that keeps the coordinates leaves the sprite where it was. -/
theorem spriteOn_after_drw (he : Executes (.drw x y n) s) (hx : exec (.drw x y n) s = .next t)
    (hvx : t.getV x = s.getV x) (hvy : t.getV y = s.getV y) (row : Fin 32) (col : Fin 64) :
    t.spriteOn x y n row col ↔ s.spriteOn x y n row col := by
  obtain ⟨hf, -⟩ := frame_of_executes he hx
  have hmem : ∀ a, t.mem.read a = s.mem.read a := fun a => hf.mem a id
  simp only [State.spriteOn, hvx, hvy, hf.index id, hmem]

theorem not_spriteOn_of_zero_bytes (h : ∀ r < n.toNat, s.mem.read (s.i.toNat + r) = 0) (row : Fin 32) (col : Fin 64) :
    ¬ s.spriteOn x y n row col := by
  rintro ⟨r, hr, c, -, -, -, hbit⟩
  simp [h r hr] at hbit

/-- The second draw toggles the pixels that the first one toggled. -/
theorem pixel_of_drw_twice {u : State} (he : Executes (.drw x y n) s) (hx : exec (.drw x y n) s = .next t)
    (hvx : t.getV x = s.getV x) (hvy : t.getV y = s.getV y) (hu : exec (.drw x y n) t = .next u) (row : Fin 32)
    (col : Fin 64) : u.pixel row col = s.pixel row col := by
  have he' := executes_after_drw he hx
  have hsprite := spriteOn_after_drw he hx hvx hvy row col
  by_cases h : s.spriteOn x y n row col
  · rw [pixel_of_drw_on he' hu (hsprite.2 h), pixel_of_drw_on he hx h, Bool.not_not]
  · rw [pixel_of_drw_off he' hu fun h' => h (hsprite.1 h'), pixel_of_drw_off he hx h]

/-- Under the sprite the first draw exchanges ON and OFF, so the second one meets ON where there was OFF. -/
theorem flag_of_drw_twice {u : State} (he : Executes (.drw x y n) s) (hx : exec (.drw x y n) s = .next t)
    (hvx : t.getV x = s.getV x) (hvy : t.getV y = s.getV y) (hu : exec (.drw x y n) t = .next u) :
    (u.getV 15).toNat = 1 ↔ ∃ row col, s.spriteOn x y n row col ∧ s.pixel row col = false := by
  rw [flag_of_drw_eq_one_iff (executes_after_drw he hx) hu]
  refine exists₂_congr fun row col => ?_
  rw [spriteOn_after_drw he hx hvx hvy]
  refine and_congr_right fun h => ?_
  rw [pixel_of_drw_on he hx h, Bool.not_eq_true']

theorem fb_of_drw_zero_bytes (he : Executes (.drw x y n) s) (hx : exec (.drw x y n) s = .next t)
    (h : ∀ r < n.toNat, s.mem.read (s.i.toNat + r) = 0) : t.fb = s.fb :=
  Framebuffer.ext_of_pixel _ _ fun row col => pixel_of_drw_off he hx (not_spriteOn_of_zero_bytes h row col)

theorem flag_of_drw_zero_bytes (he : Executes (.drw x y n) s) (hx : exec (.drw x y n) s = .next t)
    (h : ∀ r < n.toNat, s.mem.read (s.i.toNat + r) = 0) : t.getV 15 = 0 := by
  have hnone : (s.drawn x y n).2 = false := by
    rw [← Bool.not_eq_true, s.drawn_collision]
    rintro ⟨row, col, hon, -⟩
    exact not_spriteOn_of_zero_bytes h row col hon
  rw [flag_of_drw he hx, hnone]
  rfl

/-- Settles O50: two draws of one sprite, and one of a sprite without 1-bits. -/
theorem drawingTwiceRestores : Obligations.DrawingTwiceRestores := by
  refine fun x y n s t he hx =>
    ⟨fun hvx hvy => ?_, fun h => ⟨fb_of_drw_zero_bytes he hx h, flag_of_drw_zero_bytes he hx h⟩⟩
  have hu := exec_drw_of_executes (executes_after_drw he hx)
  exact ⟨_, hu, pixel_of_drw_twice he hx hvx hvy hu, flag_of_drw_twice he hx hvx hvy hu⟩

end Display

end Sys2Proof.Machine

/-! # The keypad (spec/46_keypad.md R160 to R163, spec/60_exceptions.md R215, R216)

The Step of LD Vx, K only suspends. The wait then lasts over whole steps, and it is a KeyPoll that ends it. -/

namespace Sys2Proof.Machine

section Keypad

variable {x : Reg} {s : State}

/-! ## The Steps of the three instructions -/

theorem exec_skp_of_eq {k : Reg} (h : k.val = (s.getV x).toNat) : exec (.skp x) s = .next (s.skipIf (s.key k)) := by
  rw [exec, execSkp, s.keyNumber_some x k h]

theorem exec_sknp_of_eq {k : Reg} (h : k.val = (s.getV x).toNat) : exec (.sknp x) s = .next (s.skipIf !s.key k) := by
  rw [exec, execSknp, s.keyNumber_some x k h]

/-- Settles O51: two skips on one latch bit, and the failed check of a key number. -/
theorem keySkips : Obligations.KeySkips := by
  refine fun x s => ⟨fun k hk => ⟨s.skipIf_completes _ (exec_skp_of_eq hk) rfl,
    s.skipIf_completes _ (exec_sknp_of_eq hk) ?_⟩, fun h => ?_⟩
  · cases s.key k <;> rfl
  · have hx := Nat.not_le_of_lt h
    exact ⟨exec_of_not_executes (i := .skp x) hx, exec_of_not_executes (i := .sknp x) hx⟩

/-- Settles O52: the Step writes the mode and pc alone. -/
theorem loadKeySuspends : Obligations.LoadKeySuspends := fun x s =>
  ⟨_, rfl, rfl, rfl, ((Frame.refl _ s).setMode ⟨x, rfl⟩ _).setPc _⟩

/-! ## The key that ends a wait (R216) -/

theorem lowestNewKey_eq_none_iff (old new : BitVec 16) :
    lowestNewKey old new = none ↔ ∀ j : Reg, ¬ (old.getLsb j = false ∧ new.getLsb j = true) := by
  simp [lowestNewKey]

/-- The test of `quietLatch` on whole latches, read key by key. -/
theorem lowestNewKey_eq_none_of_quiet {old new : BitVec 16} (h : new &&& ~~~old = 0) : lowestNewKey old new = none := by
  refine (lowestNewKey_eq_none_iff old new).2 fun j ⟨hold, hnew⟩ => ?_
  have hbit : (new &&& ~~~old).getLsb j = (new.getLsb j && !old.getLsb j) := by simp
  rw [h, hold, hnew] at hbit
  simp at hbit

theorem lowestNewKey_eq_some {old new : BitVec 16} {j : Reg} (hold : old.getLsb j = false) (hnew : new.getLsb j = true)
    (hmin : ∀ j' : Reg, j'.val < j.val → ¬ (old.getLsb j' = false ∧ new.getLsb j' = true)) :
    lowestNewKey old new = some j := by
  refine List.find?_eq_some_iff_getElem.2 ⟨by rw [hold, hnew]; rfl, j.val, by simp, by simp, fun j' hj' => ?_⟩
  simpa [or_iff_not_imp_left] using hmin ⟨j', hj'.trans j.isLt⟩ hj'

theorem State.nextInput_of_inputs {e : Input} {rest : List Input} (h : s.inputs = e :: rest) : s.nextInput = e := by
  rw [State.nextInput, h, List.headD_cons]

/-- The KeyPoll that ends a wait, as a whole step. -/
theorem step_of_new_key {j : Reg} {k : BitVec 16} {rest : List Input} (hm : s.mode = .awaitingKey x)
    (hi : s.inputs = .keyPoll k :: rest) (hj : lowestNewKey s.keys k = some j) :
    step s = .next ((((s.setInputs rest).setV x (BitVec.ofNat 8 j.val)).setMode .running).setKeys k) := by
  rw [step_of_stepTo (.delivered k x j (State.nextInput_of_inputs hi) hm hj), State.afterInput, hi, List.tail_cons]

/-- A key number is its own byte. -/
theorem byte_ofNat_key_toNat (j : Reg) : (BitVec.ofNat 8 j.val).toNat = j.val := by
  rw [BitVec.toNat_ofNat]
  omega

/-! ## What a wait outlasts (R82, R213, R216) -/

/-- The wait of `s` goes on in `u`: for the same register, at the same pc and with every V as it was. -/
structure State.SameWait (s u : State) : Prop where
  mode : u.mode = s.mode
  pc : u.pc = s.pc
  getV : ∀ r, u.getV r = s.getV r

theorem State.SameWait.trans {u v : State} (h : s.SameWait u) (h' : u.SameWait v) : s.SameWait v :=
  ⟨h'.mode.trans h.mode, h'.pc.trans h.pc, fun r => (h'.getV r).trans (h.getV r)⟩

/-- One quiet input; a Step is idle, a Tick writes the timers, a KeyPoll without a new press writes the latch. -/
theorem step_of_quiet {e : Input} {quiet rest : List Input} {latch : BitVec 16} (hm : s.mode = .awaitingKey x)
    (hq : quietLatch s.keys (e :: quiet) = some latch) (hi : s.inputs = e :: rest) :
    ∃ u, step s = .next u ∧ s.SameWait u ∧ quietLatch u.keys quiet = some latch ∧ u.inputs = rest := by
  have hn : s.nextInput = e := State.nextInput_of_inputs hi
  have hrest : s.inputs.tail = rest := congrArg List.tail hi
  cases e with
  | step => exact ⟨_, step_of_stepTo (.idle hn (by simp [hm])), ⟨rfl, rfl, fun _ => rfl⟩, hq, hrest⟩
  | tick => exact ⟨_, step_of_stepTo (.ticked hn (by simp [hm])), ⟨rfl, rfl, fun _ => rfl⟩, hq, hrest⟩
  | keyPoll k =>
    obtain ⟨hk, hq⟩ := Option.ite_none_right_eq_some.1 hq
    have hnone := lowestNewKey_eq_none_of_quiet hk
    exact ⟨_, step_of_stepTo (.latched k hn (.inr ⟨x, hm, hnone⟩)), ⟨rfl, rfl, fun _ => rfl⟩, hq, hrest⟩
  | reset | loaderWrite => cases hq

theorem run_of_quiet {quiet rest : List Input} {latch : BitVec 16} (hm : s.mode = .awaitingKey x)
    (hq : quietLatch s.keys quiet = some latch) (hi : s.inputs = quiet ++ rest) :
    ∃ u : State, Sys2Proof.core.run quiet.length s = .next u ∧ s.SameWait u ∧ u.keys = latch ∧ u.inputs = rest := by
  induction quiet generalizing s with
  | nil => exact ⟨s, core_run_zero s, ⟨rfl, rfl, fun _ => rfl⟩, Option.some.inj hq, hi⟩
  | cons e quiet ih =>
    obtain ⟨v, hv, hsv, hqv, hiv⟩ := step_of_quiet hm hq hi
    obtain ⟨u, hu, hvu, hlatch, hiu⟩ := ih (hsv.mode.trans hm) hqv hiv
    rw [List.length_cons, core_run_of_next _ s v hv]
    exact ⟨u, hu, hsv.trans hvu, hlatch, hiu⟩

/-- One more step at the end of a run. -/
theorem core_run_succ_of_run {n : Nat} {s t u : State} (hu : Sys2Proof.core.run n s = .next u) (ht : step u = .next t) :
    Sys2Proof.core.run (n + 1) s = .next t := by
  rw [run_add Sys2Proof.core 1 n s u hu]
  exact (core_run_of_next 0 u t ht).trans (core_run_zero t)

/-- Settles O53: the wait goes on along the quiet inputs, and the last KeyPoll shows a new press against the latch that
they leave. -/
theorem keyWaitEndsAtFirstNewPress : Obligations.KeyWaitEndsAtFirstNewPress := by
  intro s x j latch k quiet rest hm hq hi hold hnew hmin
  obtain ⟨u, hu, hsu, rfl, hiu⟩ := run_of_quiet hm hq hi
  have ht := step_of_new_key (hsu.mode.trans hm) hiu (lowestNewKey_eq_some hold hnew hmin)
  refine ⟨u, _, hu, hsu.mode.trans hm, hsu.getV, core_run_succ_of_run hu ht, rfl, hsu.pc, ?_, fun r hr => ?_, rfl, rfl⟩
  · rw [State.setKeys_getV, State.setMode_getV, State.setV_getV, if_pos rfl, byte_ofNat_key_toNat]
  · rw [State.setKeys_getV, State.setMode_getV, State.setV_getV, if_neg hr, State.setInputs_getV, hsu.getV]

end Keypad

end Sys2Proof.Machine

/-! # Timers, I and memory (spec/47_timers_index_memory.md R170 to R177)

The timer and index instructions write one register or timer and go to the next instruction. The others access a block of
memory from I upward, after the range check of R44: the store and the load are described once, byte by byte, and the round
trip composes the two. -/

namespace Sys2Proof.Machine

section TimersIndexMemory

variable {x : Reg} {s t : State}

/-! ## Timers and I (R170 to R174) -/

/-- Settles O54: one move for each timer instruction. -/
theorem timerLoads : Obligations.TimerLoads := fun x s =>
  ⟨⟨_, rfl, s.setV_advance_getV x s.dt, rfl, .setV_advance (.refl _ s) rfl⟩,
    ⟨_, rfl, rfl, rfl, ((Frame.refl _ s).setDt ⟨x, rfl⟩ _).setPc _⟩,
    _, rfl, rfl, rfl, ((Frame.refl _ s).setSt ⟨x, rfl⟩ _).setPc _⟩

/-- Settles O55: the sum wraps at 16 bits, and V[15] is a bystander. -/
theorem addIndexWraps : Obligations.AddIndexWraps := by
  intro x s
  have hf : Frame (.addI x) s (s.setI (s.i + s.wideV x)).advance := ((Frame.refl (.addI x) s).setI trivial _).setPc _
  refine ⟨_, rfl, ?_, hf.flagReg id id, rfl, hf⟩
  rw [State.advance_eq, State.setPc_i, State.setI_i, BitVec.toNat_add, s.wideV_toNat]

/-- Settles O56: the product of a byte and 5 keeps its value in 16 bits. -/
theorem loadFontAddress : Obligations.LoadFontAddress := fun x s =>
  ⟨_, rfl, glyphAddress_toNat (s.getV x), rfl, ((Frame.refl (.ldF x) s).setI trivial _).setPc _⟩

/-! ## Decimal digits (R175) -/

/-- Each digit is small enough for a byte. -/
theorem decimalDigits_toNat (b : Byte) :
    (decimalDigits b)[0].toNat = b.toNat / 100 ∧ (decimalDigits b)[1].toNat = b.toNat / 10 % 10 ∧
      (decimalDigits b)[2].toNat = b.toNat % 10 := by
  have hb := b.isLt
  simp only [decimalDigits, List.getElem_cons_zero, List.getElem_cons_succ, BitVec.toNat_ofNat]
  omega

/-- The bytes that LD B, Vx leaves: the k-th digit at I + k. -/
theorem read_of_ldB (hs : s.memoryCanonical) (he : Executes (.ldB x) s) (hx : exec (.ldB x) s = .next t) (k : Fin 3) :
    t.mem.read (s.i.toNat + k.val) = (decimalDigits (s.getV x))[k.val] := by
  obtain rfl := next_unique (exec_ldB_of_le x s he) hx
  exact hs.read_storeBytes (decimalDigits (s.getV x)) (Nat.succ_le_succ he) k.val k.isLt

/-- Settles O57: the stored block is the three digits, and a failed range check stores nothing. -/
theorem storeDecimalDigits : Obligations.StoreDecimalDigits := by
  refine fun x s hs => ⟨fun (he : Executes (.ldB x) s) => ?_, fun h => exec_of_not_executes (i := .ldB x) h.not_ge⟩
  have hx := exec_ldB_of_le x s he
  have hread := read_of_ldB hs he hx
  obtain ⟨hf, hpc⟩ := frame_of_executes he hx
  obtain ⟨hhundreds, htens, hones⟩ := decimalDigits_toNat (s.getV x)
  exact ⟨_, hx, (congrArg BitVec.toNat (hread 0)).trans hhundreds, (congrArg BitVec.toNat (hread 1)).trans htens,
    (congrArg BitVec.toNat (hread 2)).trans hones, hpc, hf⟩

/-! ## The register block (R176, R177) -/

theorem exec_loadRegs_of_le (x : Reg) (s : State) (h : s.i.toNat + x.val ≤ 4095) :
    exec (.loadRegs x) s = .next ((s.setVs (s.loadedBlock x)).setPc (s.pc + 2)) :=
  s.checkedAccess_ok (blockCount x) _ (.inr h)

/-- The bytes that LD [I], Vx leaves: V[k] at I + k. -/
theorem read_of_storeRegs (hs : s.memoryCanonical) (he : Executes (.storeRegs x) s)
    (hx : exec (.storeRegs x) s = .next t) {k : Reg} (hk : k ≤ x) : t.mem.read (s.i.toNat + k.val) = s.getV k := by
  obtain rfl := next_unique (exec_storeRegs_of_le x s he) hx
  have hlen := s.blockBytes_length x
  have hblock : s.i.toNat + (s.blockBytes x).length ≤ 4096 := hlen ▸ Nat.succ_le_succ he
  have hlt : k.val < (s.blockBytes x).length := hlen ▸ Nat.lt_succ_of_le hk
  rw [State.setPc_mem, hs.read_storeBytes (s.blockBytes x) hblock k.val hlt, s.blockBytes_getElem]

/-- The registers that LD Vx, [I] leaves: the block up to V[x], above it what was there. -/
theorem getV_of_loadRegs (he : Executes (.loadRegs x) s) (hx : exec (.loadRegs x) s = .next t) (k : Reg) :
    t.getV k = if k ≤ x then s.mem.read (s.i.toNat + k.val) else s.getV k := by
  obtain rfl := next_unique (exec_loadRegs_of_le x s he) hx
  rw [State.setPc_getV, State.setVs_getV, s.loadedBlock_get]

theorem storeRegs_completes (hs : s.memoryCanonical) (he : Executes (.storeRegs x) s) :
    ∃ t, exec (.storeRegs x) s = .next t ∧ (∀ k : Reg, k ≤ x → t.mem.read (s.i.toNat + k.val) = s.getV k) ∧
      t.pc = s.pc + 2 ∧ Frame (.storeRegs x) s t := by
  have hx := exec_storeRegs_of_le x s he
  obtain ⟨hf, hpc⟩ := frame_of_executes he hx
  exact ⟨_, hx, fun _ => read_of_storeRegs hs he hx, hpc, hf⟩

theorem loadRegs_completes (he : Executes (.loadRegs x) s) :
    ∃ t, exec (.loadRegs x) s = .next t ∧ (∀ k : Reg, k ≤ x → t.getV k = s.mem.read (s.i.toNat + k.val)) ∧
      t.pc = s.pc + 2 ∧ Frame (.loadRegs x) s t := by
  have hx := exec_loadRegs_of_le x s he
  obtain ⟨hf, hpc⟩ := frame_of_executes he hx
  exact ⟨_, hx, fun k hk => (getV_of_loadRegs he hx k).trans (if_pos hk), hpc, hf⟩

/-- Settles O58: both transfers make the same range check. -/
theorem registerBlockTransfers : Obligations.RegisterBlockTransfers := fun x _ hs =>
  ⟨fun h => ⟨storeRegs_completes hs h, loadRegs_completes h⟩, fun h =>
    ⟨exec_of_not_executes (i := .storeRegs x) h.not_ge, exec_of_not_executes (i := .loadRegs x) h.not_ge⟩⟩

/-- Settles O59: the store leaves I alone, so the load makes the same range check and reads the bytes stored. -/
theorem storedBlockLoadsBack : Obligations.StoredBlockLoadsBack := by
  intro x s t vs hs he hx
  obtain ⟨hf, -⟩ := frame_of_executes he hx
  have hi : (t.setVs vs).i = s.i := hf.index id
  have he' : Executes (.loadRegs x) (t.setVs vs) := by rwa [Executes, hi]
  have hu := exec_loadRegs_of_le x _ he'
  refine ⟨_, hu, fun k hk => ?_, fun k hk => ?_⟩
  · rw [getV_of_loadRegs he' hu, if_pos hk, hi, State.setVs_mem, read_of_storeRegs hs he hx hk]
  · rw [getV_of_loadRegs he' hu, if_neg hk.not_ge, State.setVs_getV]

end TimersIndexMemory

end Sys2Proof.Machine

/-! # Events outside instructions, and the output ports (spec/60_exceptions.md R201, R209 to R224)

A Step on a word of no executing row, a Tick and a KeyPoll are each a way of `StepTo`; what any number of them leave is an
induction over the run. The output ports are functions of the framebuffer, ST and the mode. -/

namespace Sys2Proof.Machine

section EventsAndOutputs

variable {s t : State}

/-! ## Unrecognized words (R68, R69, R201) -/

/-- Settles O8: a rejected word ends the Step at its decode, SYS at its execution. -/
theorem unrecognizedWordHalts : Obligations.UnrecognizedWordHalts := by
  rintro s w hn hm hpc rfl (⟨e, hd⟩ | ⟨nnn, hd⟩)
  · exact step_of_stepTo (.undecoded _ e hn hm (s.fetch_eq.trans (if_pos hpc)) hd)
  · exact step_of_stepTo (.failed (.sys nnn) (State.aboutToRun_of_pc_le hn hm hpc hd) id)

/-! ## Halted (R209, R210) -/

theorem State.nextInput_mem_or_eq_step (s : State) : s.nextInput ∈ s.inputs ∨ s.nextInput = .step := by
  rw [State.nextInput]
  cases s.inputs with
  | nil => exact .inr rfl
  | cons e rest => exact .inl List.mem_cons_self

theorem State.atStep_of_not_loadPhase (h : s.loadPhase = false) : s.atStep = s.afterInput := by
  rw [State.atStep, State.setLoadPhase, ← h]
  rfl

/-- With the loader port closed, an input other than Reset is only taken off the list. -/
theorem eq_afterInput_of_halted {c : Cause} (ht : StepTo s t) (hm : s.mode = .halted c) (hl : s.loadPhase = false)
    (hr : s.nextInput ≠ .reset) : t = s.afterInput := by
  have hrun : s.mode ≠ .running := by simp [hm]
  have hwait : ∀ x, s.mode ≠ .awaitingKey x := by simp [hm]
  cases ht with
  | reset h => exact absurd h hr
  | ignored => rfl
  | idle => exact State.atStep_of_not_loadPhase hl
  | ticked _ h => exact absurd hm (h c)
  | latched k _ h =>
    obtain h | ⟨x, h, -⟩ := h
    · exact absurd h hrun
    · exact absurd h (hwait x)
  | delivered k x j _ h => exact absurd h (hwait x)
  | loaded a b _ h => cases h.symm.trans hl
  | unfetched _ h | undecoded w e _ h => exact absurd h hrun
  | failed i h | completed i _ h => exact absurd h.mode_eq hrun

/-- Settles O10: each step only shortens the list of inputs. -/
theorem haltedIsFrozenUntilReset : Obligations.HaltedIsFrozenUntilReset := by
  intro n
  induction n with
  | zero =>
    intro s t c _ _ _ h
    obtain rfl := Host.Outcome.next.inj ((core_run_zero s).symm.trans h)
    rfl
  | succ n ih =>
    intro s t c hm hl hr h
    obtain ⟨u, hu, ht⟩ := core_run_of_succ n s t h
    have hne : s.nextInput ≠ .reset := by
      obtain hmem | hstep := s.nextInput_mem_or_eq_step
      · exact fun e => hr (e ▸ hmem)
      · simp [hstep]
    obtain rfl := eq_afterInput_of_halted (stepTo_of_step hu) hm hl hne
    exact ih s.afterInput t c hm hl (fun hmem => hr (List.mem_of_mem_tail hmem)) ht

/-! ## Tick (R213) -/

theorem tickTimer_toNat (b : Byte) : (tickTimer b).toNat = b.toNat - 1 := by
  rw [tickTimer]
  split
  case isTrue h => exact BitVec.toNat_sub_of_le (BitVec.le_def.2 h)
  case isFalse h => omega

/-- Settles O31: the timers count down Tick by Tick, and nothing else is written on the way. -/
theorem ticksCountBothTimersDown : Obligations.TicksCountBothTimersDown := by
  intro n
  induction n with
  | zero =>
    intro s rest _ hi
    obtain rfl : s.inputs = rest := hi
    exact ⟨s, core_run_zero s, rfl, rfl, rfl⟩
  | succ n ih =>
    intro s rest hm hi
    have hu := step_of_stepTo (.ticked (State.nextInput_of_inputs hi) hm)
    obtain ⟨t, ht, hdt, hst, heq⟩ :=
      ih ((s.afterInput.setDt (tickTimer s.dt)).setSt (tickTimer s.st)) rest hm (congrArg List.tail hi)
    refine ⟨t, (core_run_of_next n s _ hu).trans ht, ?_, ?_, heq⟩
    · rw [hdt, State.setSt_dt, State.setDt_dt, tickTimer_toNat, Nat.sub_sub, Nat.add_comm]
    · rw [hst, State.setSt_st, tickTimer_toNat, Nat.sub_sub, Nat.add_comm]

/-! ## KeyPoll (R215, R216) -/

/-- The KeyPoll that ends no wait, as a whole step. -/
theorem step_of_keyPoll_latched {k : BitVec 16} {rest : List Input} (hi : s.inputs = .keyPoll k :: rest)
    (hm : s.mode = .running ∨ ∃ x, s.mode = .awaitingKey x ∧ lowestNewKey s.keys k = none) :
    step s = .next ((s.setInputs rest).setKeys k) := by
  rw [step_of_stepTo (.latched k (State.nextInput_of_inputs hi) hm), State.afterInput, hi, List.tail_cons]

/-- Settles O32, by whether the core waits and whether the sample shows a new press. -/
theorem keyPollReplacesLatchAndResolvesWait : Obligations.KeyPollReplacesLatchAndResolvesWait := by
  refine fun s k rest hi => ⟨fun hm => step_of_keyPoll_latched hi (.inl hm), fun x hm => ⟨fun hnone => ?_, ?_⟩⟩
  · exact step_of_keyPoll_latched hi (.inr ⟨x, hm, (lowestNewKey_eq_none_iff s.keys k).2 hnone⟩)
  · intro j hold hnew hmin
    refine ⟨_, step_of_new_key hm hi (lowestNewKey_eq_some hold hnew hmin), ?_, fun r hr => ?_, rfl, rfl, rfl⟩
    · rw [State.setKeys_getV, State.setMode_getV, State.setV_getV, if_pos rfl, byte_ofNat_key_toNat]
    · rw [State.setKeys_getV, State.setMode_getV, State.setV_getV, if_neg hr, State.setInputs_getV]

/-! ## Output ports (R222 to R224) -/

/-- Settles O33: a byte is 0 exactly when its number is. -/
theorem toneIsSoundTimerNonzero : Obligations.ToneIsSoundTimerNonzero := fun s => by
  rw [State.tone, bne_iff_ne]
  exact BitVec.toNat_ne_iff_ne.symm

/-- `fb_out` is row-major (R222, D21). -/
theorem State.fbOut_get (s : State) (row : Fin 32) (col : Fin 64) (k : Fin 2048) (hk : k.val = row.val * 64 + col.val) :
    s.fbOut.get k = s.pixel row col := by
  have hrow : wrapRow (k.val / 64) = row := Fin.ext (by rw [wrapRow_val]; omega)
  have hcol : wrapCol k.val = col := Fin.ext (by rw [wrapCol_val]; omega)
  rw [State.fbOut, Vector.get_eq_getElem, Vector.getElem_ofFn, hrow, hcol]

theorem State.eq_setMode {m : Mode} (hm : s.mode = m) : s = s.setMode m := by
  subst hm
  rfl

/-- Settles O34: the status ports look at the mode alone, so each computes once the mode is written out. -/
theorem outputsDecodeState : Obligations.OutputsDecodeState := by
  refine fun s => ⟨s.fbOut_get, fun hm => ?_, fun x hm => ?_, fun c hm => ?_⟩ <;> rw [State.eq_setMode hm]
  · exact ⟨rfl, rfl, rfl, rfl, rfl⟩
  · exact ⟨rfl, rfl, rfl, Nat.mod_eq_of_lt x.isLt, rfl⟩
  · refine ⟨rfl, rfl, rfl, rfl, ?_⟩
    cases c <;> rfl

end EventsAndOutputs

end Sys2Proof.Machine

/-! # Reset, program load and the loader port (spec/70_reset_and_hazards.md R240 to R247)

The launch state is the reset state with one block of bytes written from 0x200 up. The loader port writes that block byte
by byte, and until the first Step nothing else but the key latch departs from what Reset left. -/

namespace Sys2Proof.Machine

/-! ## Reset (R28, R240) -/

/-- MEM_FILL from 0x050 up (R28, D24). -/
theorem resetByte_of_font_le {a : Nat} (h : 0x50 ≤ a) : resetByte a = 0 :=
  List.getD_eq_default font Config.memFill h

theorem State.reset_getV (r : Reg) : State.reset.getV r = 0 := Vector.getElem_replicate r.isLt

theorem State.reset_key (k : Reg) : State.reset.key k = false := BitVec.getElem_zero k.isLt

/-- Settles O26: the Reset event copies the reset state, whose memory reads as the font and MEM_FILL. -/
theorem resetEventLeaves : Obligations.ResetEventLeaves := fun s hn =>
  ⟨_, step_of_reset s hn, rfl, Framebuffer.pixel_clear, rfl, State.reset_getV, rfl, rfl, rfl, State.reset_key, rfl,
    fun _ => resetByte_of_font_le, rfl⟩

/-! ## The launch state (R245 to R247) -/

/-- A program is placed by one block write to the reset memory. -/
theorem launch_of_length_le {prog : List Byte} (h : prog.length ≤ 3584) :
    launch prog = .ok (State.reset.setMem (State.reset.mem.writeBytes 0x200 prog)) := if_pos h

/-- Settles O28: the length is all that launch checks. -/
theorem loadErrorAboveLimit : Obligations.LoadErrorAboveLimit := by
  intro prog
  by_cases h : prog.length ≤ 3584
  · rw [launch_of_length_le h]
    exact iff_of_false nofun h.not_gt
  · exact iff_of_true (if_neg h) (not_le.1 h)

/-- The word at 0x200 is 0x0000, a SYS, when no program is loaded (log 8). -/
theorem step_reset_halts :
    step State.reset = .next (State.reset.atStep.setMode (.halted .unrecognizedInstruction)) :=
  unrecognizedWordHalts State.reset 0 rfl rfl (by decide) (by decide) (.inr ⟨0, by decide⟩)

/-- Settles O27: the launch memory is read as a block written below 4096 over the reset memory. -/
theorem launchPlacesProgram : Obligations.LaunchPlacesProgram := by
  refine ⟨fun prog h => ⟨_, launch_of_length_le h, fun k hk => ?_, fun a ha => ?_, fun a ha => ?_, rfl, ?_⟩,
    State.reset, rfl, rfl, step_reset_halts⟩
  · have hblock : 0x200 ≤ 0x200 + k ∧ 0x200 + k < 0x200 + prog.length := by omega
    refine (Memory.read_writeBytes prog _ 0x200 _ Memory.empty_wf (Nat.add_le_add_left h 0x200)).trans ?_
    simp only [dif_pos hblock, Nat.add_sub_cancel_left]
  · exact Memory.read_writeBytes_outside prog _ 0x200 a ha
  · exact (Memory.read_writeBytes_outside prog _ 0x200 a (by omega)).trans (resetByte_of_font_le (by omega))
  · exact Memory.writeBytes_wf prog _ 0x200 Memory.empty_wf

/-! ## The loader port (R93, R243, R245) -/

/-- Each byte is written at its own address, below 4096, in the order of the block write. -/
theorem run_of_loaderWrites (bs : List Byte) {s : State} {a : Nat} {rest : List Input} (hl : s.loadPhase = true)
    (ha : a + bs.length ≤ 4096) (hi : s.inputs = loaderWrites a bs ++ rest) :
    Sys2Proof.core.run bs.length s = .next ((s.setMem (s.mem.writeBytes a bs)).setInputs rest) := by
  induction bs generalizing s a with
  | nil =>
    obtain rfl : s.inputs = rest := hi
    exact core_run_zero s
  | cons b bs ih =>
    rw [List.length_cons] at ha
    have haddr : (BitVec.ofNat 12 a).toNat = a := Nat.mod_eq_of_lt (by omega)
    have hu := step_of_stepTo (.loaded (BitVec.ofNat 12 a) b (State.nextInput_of_inputs hi) hl)
    rw [haddr] at hu
    have hrest := ih (s := s.afterInput.setMem (s.mem.write a b)) hl (by omega) (congrArg List.tail hi)
    exact (core_run_of_next bs.length s _ hu).trans hrest

/-- Settles O29: the run of the port's writes on the reset state, whose load phase is open. -/
theorem loaderPortReachesLaunchState : Obligations.LoaderPortReachesLaunchState := fun prog _ h =>
  ⟨_, launch_of_length_le h, run_of_loaderWrites prog rfl (by omega) rfl⟩

/-- Settles O18: a Step ends the load phase and a Reset starts it afresh; in between the core is Running with both timers
at 0, so that a Tick writes nothing and no KeyPoll ends a wait. -/
theorem everyStepKeepsFreshWhileLoading : Obligations.EveryStepKeepsFreshWhileLoading := by
  intro s t hs ht hl
  have h := stepTo_of_step ht
  have hstep : s.nextInput ≠ .step := fun hn => by
    cases hl.symm.trans (loadPhase_of_stepTo h (.inl hn) (by simp [hn]))
  cases h with
  | reset => rfl
  | ignored => exact congrArg State.afterInput (hs hl)
  | ticked =>
    exact congrArg (fun u : State => (u.afterInput.setDt (tickTimer u.dt)).setSt (tickTimer u.st)) (hs hl)
  | latched k => exact congrArg (fun u : State => u.afterInput.setKeys k) (hs hl)
  | delivered k x j _ hm => cases hm.symm.trans (congrArg State.mode (hs hl))
  | loaded a b => exact congrArg (fun u : State => u.afterInput.setMem (u.mem.write a.toNat b)) (hs hl)
  | idle hn | unfetched hn | undecoded w e hn => exact absurd hn hstep
  | failed i hi | completed i _ hi => exact absurd hi.nextInput_eq hstep

end Sys2Proof.Machine
